-- ==== Sys2Proof/Word.lean ====
section
/-! DEFINITION. The word types: 8-bit registers, 16-bit buffer words, 32-bit port values (00_scope.md R6, R8). -/

namespace Sys2Proof

/-- An 8-bit register or byte (00_scope.md R6). -/
abbrev Byte := BitVec 8

/-- A 16-bit data word of the sector buffer (00_scope.md R6). -/
abbrev Word := BitVec 16

/-- A 32-bit port value: what `read` returns and `write` takes (00_scope.md R6). -/
abbrev Dword := BitVec 32

end Sys2Proof
end

