-- ==== Sys2Proof/Machine/Bytes.lean ====
section
/-! DEFINITION. Byte order and bit fields: the only places where the byte order of words and of packet fields is decided
(20_memory.md R52 to R54). -/

namespace Sys2Proof.Machine

/-- The low byte of a word, `w[7:0]`. -/
def lowByte (w : Word) : Byte := w.extractLsb' 0 8

/-- The high byte of a word, `w[15:8]`. -/
def highByte (w : Word) : Byte := w.extractLsb' 8 8

/-- `(hi << 8) | lo`: the word with these two bytes (20_memory.md R53; 10_state.md R26). -/
def joinBytes (lo hi : Byte) : Word := hi ++ lo

/-- `words(bs)` (20_memory.md R53): little-endian packing, a missing last byte counts as 0x00. -/
def words : List Byte → List Word
  | [] => []
  | [lo] => [joinBytes lo 0x00]
  | lo :: hi :: rest => joinBytes lo hi :: words rest

/-- `bytesOf(ws)` (20_memory.md R53): little-endian unpacking. -/
def bytesOf : List Word → List Byte
  | [] => []
  | w :: ws => lowByte w :: highByte w :: bytesOf ws

/-- `value[7:0]`, what an 8-bit port takes of a written value (20_memory.md R52). -/
def valueByte (v : Dword) : Byte := v.extractLsb' 0 8

/-- `value[15:0]`, what the data port takes of a written value (20_memory.md R52). -/
def valueWord (v : Dword) : Word := v.extractLsb' 0 16

/-- A 32-bit value from four bytes, most significant first (20_memory.md R54). -/
def bigEndian32 (b3 b2 b1 b0 : Byte) : Dword := b3 ++ b2 ++ b1 ++ b0

/-- A 16-bit value from two bytes, most significant first (20_memory.md R54, D23). -/
def bigEndian16 (b1 b0 : Byte) : BitVec 16 := b1 ++ b0

/-- Byte i of a 32-bit value, byte 0 the least significant. -/
def byteOfDword (v : Dword) (i : Nat) : Byte := v.extractLsb' (8 * i) 8

end Sys2Proof.Machine
end

