-- ==== Sys2Proof/Syntax.lean ====
section
/-! DEFINITION. The syntax: channels, slots, backend kinds, guest port accesses, and `Instr`, one constructor per
row of spec/opcode_table.json (30_encoding.md R70 to R86). -/

namespace Sys2Proof

/-- The two channels (10_state.md R21). -/
inductive Chan where
  | primary
  | secondary
  deriving DecidableEq, Repr

/-- The two drive slots of a channel (00_scope.md R12): slot 0 is the master, slot 1 the slave. -/
inductive Slot where
  | master
  | slave
  deriving DecidableEq, Repr

/-- The two drive backends (00_scope.md R2). -/
inductive Kind where
  | hd
  | atapi
  deriving DecidableEq, Repr

/-- The direction of a port access (30_encoding.md R70, bit 16 of the access word). -/
inductive Dir where
  | read
  | write
  deriving DecidableEq, Repr

/-- One guest port access: `read(port, size)` or `write(port, value, size)` (40_controller_ports.md R100).
The value of a read is not used. -/
structure Access where
  dir   : Dir
  port  : BitVec 16
  size  : Nat
  value : Dword
  deriving DecidableEq, Repr

/-- The formats of 30_encoding.md R70, each with what selects it beside the word itself: a command byte is decoded
for the selected drive's backend on a channel (R74, R86), a packet for a channel (R75). -/
inductive Format where
  | port
  | ataCmd (k : Kind) (c : Chan)
  | atapiPkt (c : Chan)
  deriving DecidableEq, Repr

/-- The instructions: one constructor per row of spec/opcode_table.json. Port rows carry the channel, the access
size and, for a write, the 32-bit value; the ATA command rows carry the channel they are written to; the packet rows
carry in addition the operands of the packet (30_encoding.md R72, R74, R75). -/
inductive Instr where
  -- format `port`
  | dataRd (c : Chan) (size : Nat)
  | dataWr (c : Chan) (size : Nat) (value : Dword)
  | errorRd (c : Chan) (size : Nat)
  | precompWr (c : Chan) (size : Nat) (value : Dword)
  | seccntRd (c : Chan) (size : Nat)
  | seccntWr (c : Chan) (size : Nat) (value : Dword)
  | secnumRd (c : Chan) (size : Nat)
  | secnumWr (c : Chan) (size : Nat) (value : Dword)
  | cylloRd (c : Chan) (size : Nat)
  | cylloWr (c : Chan) (size : Nat) (value : Dword)
  | cylhiRd (c : Chan) (size : Nat)
  | cylhiWr (c : Chan) (size : Nat) (value : Dword)
  | drvhdRd (c : Chan) (size : Nat)
  | drvhdWr (c : Chan) (size : Nat) (value : Dword)
  | statusRd (c : Chan) (size : Nat)
  | commandWr (c : Chan) (size : Nat) (value : Dword)
  | devctlRd (c : Chan) (size : Nat)
  | devctlWr (c : Chan) (size : Nat) (value : Dword)
  | unmappedRd (port : BitVec 16) (size : Nat)
  | unmappedWr (port : BitVec 16) (size : Nat) (value : Dword)
  -- format `ata_cmd`
  | readSectors (c : Chan)
  | writeSectors (c : Chan)
  | identifyDevice (c : Chan)
  | hdAbortOther (c : Chan) (op : Byte)
  | packet (c : Chan)
  | identifyPacketDevice (c : Chan)
  | atapiAbortOther (c : Chan) (op : Byte)
  -- format `atapi_pkt`
  | inquiry (c : Chan)
  | read10 (c : Chan) (lba : Dword) (len : BitVec 16)
  | read12 (c : Chan) (lba : Dword) (len : BitVec 16)
  | pktAbortOther (c : Chan) (pop : Byte)
  deriving DecidableEq, Repr

end Sys2Proof
end

