-- ==== Sys2Proof/WellFormed.lean ====
section
/-! DEFINITION. Which instructions are well formed: the forms that 30_encoding.md gives an encoding. -/

namespace Sys2Proof

/-- The access sizes the spec admits (20_memory.md R52, 40_controller_ports.md R101). -/
def admittedSize (size : Nat) : Bool := size == 1 || size == 2 || size == 4

/-- Whether a port is in the map (30_encoding.md R71), with `q = port & 0xFF7F`. -/
def mappedPort (port : BitVec 16) : Bool :=
  let q := (port &&& 0xFF7F#16).toNat
  (0x170 ≤ q && q ≤ 0x177) || q == 0x376

/-- A well-formed instruction: the size of a port access is admitted (R101), an unmapped access names a port outside
the map (R71), and a default row stands for none of the bytes that have a row of their own (R74, R75, R86). -/
def Instr.wellFormed : Instr → Bool
  | .dataRd _ n | .errorRd _ n | .seccntRd _ n | .secnumRd _ n | .cylloRd _ n | .cylhiRd _ n | .drvhdRd _ n
  | .statusRd _ n | .devctlRd _ n => admittedSize n
  | .dataWr _ n _ | .precompWr _ n _ | .seccntWr _ n _ | .secnumWr _ n _ | .cylloWr _ n _ | .cylhiWr _ n _
  | .drvhdWr _ n _ | .commandWr _ n _ | .devctlWr _ n _ => admittedSize n
  | .unmappedRd p n => admittedSize n && !mappedPort p
  | .unmappedWr p n _ => admittedSize n && !mappedPort p
  | .readSectors _ | .writeSectors _ | .identifyDevice _ | .packet _ | .identifyPacketDevice _ => true
  | .hdAbortOther _ op => op != 0x20 && op != 0x30 && op != 0xEC
  | .atapiAbortOther _ op => op != 0xA0 && op != 0xA1
  | .inquiry _ | .read10 _ _ _ | .read12 _ _ _ => true
  | .pktAbortOther _ pop => pop != 0x12 && pop != 0x28 && pop != 0xA8

end Sys2Proof
end

