-- ==== Sys2Proof/Decode.lean ====
section
/-! DEFINITION. The decoders of 30_encoding.md, total on any bytes and rejecting by name, and after them the encoder.
A port access is decoded from its port number (R71), a command byte for the selected backend (R74), a packet from its
12 bytes (R75 to R78). -/

namespace Sys2Proof

open Machine

/-! ### Format `port` -/

/-- Where a port number leads (30_encoding.md R71). -/
inductive Target where
  | taskFile (c : Chan) (off : Fin 8)
  | control (c : Chan)
  | notDecoded
  deriving DecidableEq, Repr

/-- The channel bit of a port number (30_encoding.md R71): bit 7 = 1 is Primary. -/
def channelOfPort (port : BitVec 16) : Chan := if port.getLsbD 7 then .primary else .secondary

/-- Port decode (30_encoding.md R71): `q = port & 0xFF7F`; `0x170 ≤ q ≤ 0x177` is task-file offset `q - 0x170`;
`q = 0x376` is the control port; every other port is not decoded. -/
def decodePort (port : BitVec 16) : Target :=
  let q := (port &&& 0xFF7F#16).toNat
  if 0x170 ≤ q ∧ q ≤ 0x177 then .taskFile (channelOfPort port) (Fin.ofNat 8 (q - 0x170))
  else if q = 0x376 then .control (channelOfPort port)
  else .notDecoded

/-- The read of a task-file offset (30_encoding.md R72). -/
def taskFileRead (c : Chan) (off : Fin 8) (size : Nat) : Instr :=
  if off = 0 then .dataRd c size
  else if off = 1 then .errorRd c size
  else if off = 2 then .seccntRd c size
  else if off = 3 then .secnumRd c size
  else if off = 4 then .cylloRd c size
  else if off = 5 then .cylhiRd c size
  else if off = 6 then .drvhdRd c size
  else .statusRd c size

/-- The write of a task-file offset (30_encoding.md R72). -/
def taskFileWrite (c : Chan) (off : Fin 8) (size : Nat) (v : Dword) : Instr :=
  if off = 0 then .dataWr c size v
  else if off = 1 then .precompWr c size v
  else if off = 2 then .seccntWr c size v
  else if off = 3 then .secnumWr c size v
  else if off = 4 then .cylloWr c size v
  else if off = 5 then .cylhiWr c size v
  else if off = 6 then .drvhdWr c size v
  else .commandWr c size v

/-- The instruction a guest access stands for (30_encoding.md R71, R72; 40_controller_ports.md R100). Total. -/
def decodeAccess (a : Access) : Instr :=
  match a.dir, decodePort a.port with
  | .read, .taskFile c off => taskFileRead c off a.size
  | .read, .control c => .devctlRd c a.size
  | .read, .notDecoded => .unmappedRd a.port a.size
  | .write, .taskFile c off => taskFileWrite c off a.size a.value
  | .write, .control c => .devctlWr c a.size a.value
  | .write, .notDecoded => .unmappedWr a.port a.size a.value

/-! ### Formats `ata_cmd` and `atapi_pkt` -/

/-- The command byte for an HD drive (30_encoding.md R74, 42_hard_disk.md R161). -/
def decodeHdCommand (c : Chan) (op : Byte) : Instr :=
  if op = 0x20 then .readSectors c
  else if op = 0x30 then .writeSectors c
  else if op = 0xEC then .identifyDevice c
  else .hdAbortOther c op

/-- The command byte for an ATAPI drive (30_encoding.md R74, 43_atapi.md R191). -/
def decodeCdCommand (c : Chan) (op : Byte) : Instr :=
  if op = 0xA1 then .identifyPacketDevice c
  else if op = 0xA0 then .packet c
  else .atapiAbortOther c op

/-- The command byte for a backend (30_encoding.md R74, R86). -/
def decodeCommand (k : Kind) (c : Chan) (op : Byte) : Instr :=
  match k with
  | .hd => decodeHdCommand c op
  | .atapi => decodeCdCommand c op

/-- `lba(p)`: bytes 2 to 5, big-endian (30_encoding.md R82). -/
def packetLba (p : Vector Byte 12) : Dword := bigEndian32 p[2] p[3] p[4] p[5]

/-- The raw length field of READ(10): bytes 7 and 8, big-endian (30_encoding.md R76). -/
def packetLen10 (p : Vector Byte 12) : BitVec 16 := bigEndian16 p[7] p[8]

/-- The raw length field of READ(12): bytes 6 and 7, big-endian (30_encoding.md R77). -/
def packetLen12 (p : Vector Byte 12) : BitVec 16 := bigEndian16 p[6] p[7]

/-- The packet command of 12 bytes (30_encoding.md R75 to R78, 43_atapi.md R194). -/
def decodePacket (c : Chan) (p : Vector Byte 12) : Instr :=
  if p[0] = 0x12 then .inquiry c
  else if p[0] = 0x28 then .read10 c (packetLba p) (packetLen10 p)
  else if p[0] = 0xA8 then .read12 c (packetLba p) (packetLen12 p)
  else .pktAbortOther c p[0]

/-! ### Bytes

The spec gives the access word A (17 bits), the size and the value of an access, but no layout of the three as bytes.
DESIGN CHOICE (log 4), safe: A in three bytes, least significant first, bits 23:17 zero; one byte holding size - 1;
for a write the four bytes of the value, least significant first. -/

/-- Why bytes decode to no instruction. -/
inductive DecodeError where
  /-- Fewer bytes than the format has. -/
  | truncated
  /-- Bits 23:17 of the access word's three bytes are not zero (an access word has 17 bits, 30_encoding.md R70). -/
  | accessWordTooWide
  deriving DecidableEq, Repr

/-- The guest access in a list of bytes, and the bytes after it. -/
def accessOfBytes : List Byte → Except DecodeError (Access × List Byte)
  | a0 :: a1 :: a2 :: n :: rest =>
    if a2 = 0 then .ok (⟨.read, joinBytes a0 a1, n.toNat + 1, 0⟩, rest)
    else if a2 = 1 then
      match rest with
      | v0 :: v1 :: v2 :: v3 :: rest' => .ok (⟨.write, joinBytes a0 a1, n.toNat + 1, bigEndian32 v3 v2 v1 v0⟩, rest')
      | _ => .error .truncated
    else .error .accessWordTooWide
  | _ => .error .truncated

/-- The 12 packet bytes at the head of a list of bytes, and the bytes after them (30_encoding.md R75). -/
def packetOfBytes : List Byte → Except DecodeError (Vector Byte 12 × List Byte)
  | b0 :: b1 :: b2 :: b3 :: b4 :: b5 :: b6 :: b7 :: b8 :: b9 :: b10 :: b11 :: rest =>
    .ok (#v[b0, b1, b2, b3, b4, b5, b6, b7, b8, b9, b10, b11], rest)
  | _ => .error .truncated

/-- The decoder: the instruction at the head of a list of bytes in the given format, and the bytes after it. -/
def decode (f : Format) (bs : List Byte) : Except DecodeError (Instr × List Byte) :=
  match f with
  | .port =>
    match accessOfBytes bs with
    | .ok (a, rest) => .ok (decodeAccess a, rest)
    | .error e => .error e
  | .ataCmd k c =>
    match bs with
    | op :: rest => .ok (decodeCommand k c op, rest)
    | [] => .error .truncated
  | .atapiPkt c =>
    match packetOfBytes bs with
    | .ok (p, rest) => .ok (decodePacket c p, rest)
    | .error e => .error e

/-! ### The opcode table's words -/

/-- The format a table word of this many bits is read in, with its context: more than one byte is an access word;
one byte is the packet opcode or the command byte that has a row of its own, and any other byte is the first default
row, HD_ABORT_OTHER. The context is the Primary channel. DESIGN CHOICE (log 5), safe: the table's one-byte rows do
not say in the word which backend or format they belong to. -/
def tableFormat (nbits : Nat) (w : Nat) : Format :=
  if 8 < nbits then .port
  else
    let b := w % 256
    if b = 0x12 ∨ b = 0x28 ∨ b = 0xA8 then .atapiPkt .primary
    else if b = 0xA0 ∨ b = 0xA1 then .ataCmd .atapi .primary
    else .ataCmd .hd .primary

/-- The bytes of a table word, least significant first, with zero bytes above it up to the longest instruction
(12 bytes, a packet). -/
def tableBytes (w : Nat) : List Byte :=
  [BitVec.ofNat 8 w, BitVec.ofNat 8 (w >>> 8), BitVec.ofNat 8 (w >>> 16), BitVec.ofNat 8 (w >>> 24),
   BitVec.ofNat 8 (w >>> 32), BitVec.ofNat 8 (w >>> 40), BitVec.ofNat 8 (w >>> 48), BitVec.ofNat 8 (w >>> 56),
   BitVec.ofNat 8 (w >>> 64), BitVec.ofNat 8 (w >>> 72), BitVec.ofNat 8 (w >>> 80), BitVec.ofNat 8 (w >>> 88)]

/-- The instruction this decoder reads from a word of spec/opcode_table.json (bit 0 the least significant bit of the
first byte, bits at and above `nbits` zero). -/
def decodeTableWord (nbits w : Nat) : Option Instr :=
  match decode (tableFormat nbits w) (tableBytes (w % 2 ^ max nbits 8)) with
  | .ok (i, _) => some i
  | .error _ => none

/-! ### The encoder -/

/-- The format an instruction is encoded in (30_encoding.md R70). -/
def Instr.format : Instr → Format
  | .readSectors c | .writeSectors c | .identifyDevice c | .hdAbortOther c _ => .ataCmd .hd c
  | .packet c | .identifyPacketDevice c | .atapiAbortOther c _ => .ataCmd .atapi c
  | .inquiry c | .read10 c _ _ | .read12 c _ _ | .pktAbortOther c _ => .atapiPkt c
  | .dataRd .. | .dataWr .. | .errorRd .. | .precompWr .. | .seccntRd .. | .seccntWr .. | .secnumRd .. | .secnumWr ..
  | .cylloRd .. | .cylloWr .. | .cylhiRd .. | .cylhiWr .. | .drvhdRd .. | .drvhdWr .. | .statusRd .. | .commandWr ..
  | .devctlRd .. | .devctlWr .. | .unmappedRd .. | .unmappedWr .. => .port

/-- The port of a task-file offset (20_memory.md R65): base 0x1F0 for Primary, 0x170 for Secondary. -/
def taskPort (c : Chan) (off : BitVec 16) : BitVec 16 :=
  match c with
  | .primary => 0x1F0 + off
  | .secondary => 0x170 + off

/-- The control port of a channel (20_memory.md R65). -/
def controlPort (c : Chan) : BitVec 16 :=
  match c with
  | .primary => 0x3F6
  | .secondary => 0x376

/-- The bytes of a read of a port. -/
def encodeRead (port : BitVec 16) (size : Nat) : List Byte :=
  [lowByte port, highByte port, 0x00, BitVec.ofNat 8 (size - 1)]

/-- The bytes of a write of a port. -/
def encodeWrite (port : BitVec 16) (size : Nat) (v : Dword) : List Byte :=
  [lowByte port, highByte port, 0x01, BitVec.ofNat 8 (size - 1),
   byteOfDword v 0, byteOfDword v 1, byteOfDword v 2, byteOfDword v 3]

/-- The bytes of a well-formed instruction (20_memory.md R65, 30_encoding.md R72, R74 to R78). Ignored packet bytes
are encoded as zero. -/
def encode : Instr → List Byte
  | .dataRd c n => encodeRead (taskPort c 0) n
  | .dataWr c n v => encodeWrite (taskPort c 0) n v
  | .errorRd c n => encodeRead (taskPort c 1) n
  | .precompWr c n v => encodeWrite (taskPort c 1) n v
  | .seccntRd c n => encodeRead (taskPort c 2) n
  | .seccntWr c n v => encodeWrite (taskPort c 2) n v
  | .secnumRd c n => encodeRead (taskPort c 3) n
  | .secnumWr c n v => encodeWrite (taskPort c 3) n v
  | .cylloRd c n => encodeRead (taskPort c 4) n
  | .cylloWr c n v => encodeWrite (taskPort c 4) n v
  | .cylhiRd c n => encodeRead (taskPort c 5) n
  | .cylhiWr c n v => encodeWrite (taskPort c 5) n v
  | .drvhdRd c n => encodeRead (taskPort c 6) n
  | .drvhdWr c n v => encodeWrite (taskPort c 6) n v
  | .statusRd c n => encodeRead (taskPort c 7) n
  | .commandWr c n v => encodeWrite (taskPort c 7) n v
  | .devctlRd c n => encodeRead (controlPort c) n
  | .devctlWr c n v => encodeWrite (controlPort c) n v
  | .unmappedRd p n => encodeRead p n
  | .unmappedWr p n v => encodeWrite p n v
  | .readSectors _ => [0x20]
  | .writeSectors _ => [0x30]
  | .identifyDevice _ => [0xEC]
  | .hdAbortOther _ op => [op]
  | .packet _ => [0xA0]
  | .identifyPacketDevice _ => [0xA1]
  | .atapiAbortOther _ op => [op]
  | .inquiry _ => [0x12, 0, 0, 0, 0, 0, 0, 0, 0, 0, 0, 0]
  | .read10 _ lba n =>
    [0x28, 0, byteOfDword lba 3, byteOfDword lba 2, byteOfDword lba 1, byteOfDword lba 0, 0,
     highByte n, lowByte n, 0, 0, 0]
  | .read12 _ lba n =>
    [0xA8, 0, byteOfDword lba 3, byteOfDword lba 2, byteOfDword lba 1, byteOfDword lba 0,
     highByte n, lowByte n, 0, 0, 0, 0]
  | .pktAbortOther _ pop => [pop, 0, 0, 0, 0, 0, 0, 0, 0, 0, 0, 0]

end Sys2Proof
end

