-- ==== Sys2Proof/Config.lean ====
section
/-! DEFINITION. What the source leaves to the implementation (00_scope.md R7) and the free values (93_implementation_defined.md). -/

namespace Sys2Proof

/-- The two readings of the early-finish predicate (41_buffer_protocol.md R141): `2·k = y`, the default, and
`y ≠ 0 ∧ 2·k ≥ y`, the one other reading a model may substitute. -/
inductive EarlyFinish where
  | atThreshold
  | fromThreshold
  deriving DecidableEq, Repr

/-- The named error codes of the error register (00_scope.md R11; 10_state.md R31). -/
inductive ErrCode where
  | aborted
  | mediaChange
  | idNotFound
  | mediaChanged
  | uncorrectable
  | badBlock
  deriving DecidableEq, Repr

/-- `ERR_BITS` (00_scope.md R7): the bit position of each error flag. -/
structure ErrBits where
  aborted       : Fin 8
  mediaChange   : Fin 8
  idNotFound    : Fin 8
  mediaChanged  : Fin 8
  uncorrectable : Fin 8
  badBlock      : Fin 8
  deriving DecidableEq, Repr

/-- `HD_GEOMETRY` (10_state.md R34): informational, read by no rule. -/
structure Geometry where
  cylinders : Nat
  heads     : Nat
  sectors   : Nat
  deriving DecidableEq, Repr, Inhabited

/-- The parameters of 00_scope.md R7, fixed for a machine. State carries one such record, which no step changes
(log 1), so that every statement holds for every choice of them. -/
structure Config where
  /-- `CONSTRUCT_VALUE`, every register of a new drive (10_state.md R37). -/
  constructValue : Byte
  /-- `EARLY_FINISH` (41_buffer_protocol.md R141). -/
  earlyFinish    : EarlyFinish
  /-- `ERR_BITS` (10_state.md R31). -/
  errBits        : ErrBits
  /-- `HD_IDENTIFY`, OPEN. -/
  hdIdentify     : Vector Word 256
  /-- `CD_IDENTIFY`, OPEN. -/
  cdIdentify     : Vector Word 256
  /-- `INQUIRY_DATA`, OPEN. -/
  inquiryData    : Vector Byte 36
  /-- `HD_GEOMETRY`, OPEN. -/
  hdGeometry     : Geometry
  deriving DecidableEq, Repr

/-- The answer of one backing-store access (20_memory.md R56, R57). What bytes an `ok` answer gives is fixed by the
store itself: the bytes of the range, fewer at the end of an ATAPI image. -/
inductive StoreAnswer where
  | ok
  | stall
  | ioFault
  deriving DecidableEq, Repr, Inhabited

/-- FREE VALUE (log 12): the HD identify block, which the source does not give (92_eei_decisions.md D39). -/
opaque Config.openHdIdentify : Vector Word 256

/-- FREE VALUE (log 12): the ATAPI identify block (D39). -/
opaque Config.openCdIdentify : Vector Word 256

/-- FREE VALUE (log 12): the INQUIRY response (D39). -/
opaque Config.openInquiryData : Vector Byte 36

/-- FREE VALUE (log 12): the HD geometry (D39). -/
opaque Config.openHdGeometry : Geometry

/-- FREE VALUE (log 11): the answer of the n-th backing-store access where the environment has fixed none
(93_implementation_defined.md I7, I9: any value, under no law). -/
opaque Config.freeStoreAnswer : Nat → StoreAnswer

/-- The bit positions of decision D1 (00_scope.md R11). DESIGN CHOICE (log 10), unsafe: the source gives names only. -/
def ErrBits.standard : ErrBits :=
  { aborted := 2, mediaChange := 3, idNotFound := 4, mediaChanged := 5, uncorrectable := 6, badBlock := 7 }

/-- The configuration of the machine after reset: the spec's defaults (D1, D10, D16; logs 8, 9, 10, DESIGN CHOICE,
unsafe) and the OPEN contents as free values (log 12, safe). -/
def Config.standard : Config :=
  { constructValue := 0x00
    earlyFinish    := .atThreshold
    errBits        := ErrBits.standard
    hdIdentify     := Config.openHdIdentify
    cdIdentify     := Config.openCdIdentify
    inquiryData    := Config.openInquiryData
    hdGeometry     := Config.openHdGeometry }

end Sys2Proof
end

