-- ==== Sys2Proof/Machine/State.lean ====
section
/-! DEFINITION. The state of the controller, all plain data (10_state.md; 44_host_operations.md R230 to R243), the
reasons a step can stop, and the state after power-on (R38, R295). -/

namespace Sys2Proof.Machine

/-- One backing store: `len` bytes, listed as address and byte pairs in one canonical form (`Memory.wf`): addresses
strictly rising and below `len`, no listed byte 0x00. An address below `len` that is not listed holds 0x00 (log 15). -/
structure Memory where
  len   : Nat
  cells : List Host.Cell
  deriving DecidableEq, Repr

/-- A backing store's contents as the host hands them over: a length and bytes at addresses, in any order, a later
pair overriding an earlier one, 0x00 elsewhere. Every byte sequence is one of these (log 15). -/
structure Image where
  len   : Nat
  cells : List Host.Cell
  deriving DecidableEq, Repr

/-- `D.media` (10_state.md R33). The attached handle is held as the bytes it stands for: there is one backing store
per drive (20_memory.md R50; log 13). -/
inductive Media where
  | unattached
  | loading
  | attached (m : Memory)
  deriving DecidableEq, Repr

/-- A drive record (10_state.md R24): kind, register file (R25), sector buffer and cursor (R28), packet staging area
(R32), media (R33). -/
structure Drive where
  kind         : Kind
  error        : Byte
  sectorCount  : Byte
  sectorNumber : Byte
  cylLow       : Byte
  cylHigh      : Byte
  driveHead    : Byte
  status       : Byte
  buf          : List Word
  cur          : Nat
  packet       : Vector Byte 12
  media        : Media
  deriving DecidableEq, Repr

/-- What the controller holds for one channel (10_state.md R21): the two slots, `devCtl` (R22) and
`primarySelected` (R23). -/
structure Channel where
  master          : Option Drive
  slave           : Option Drive
  devCtl          : Byte
  primarySelected : Bool
  deriving DecidableEq, Repr

/-- One pending image load: the loader agent's identity, its target drive (a slot does not move, R233), and the opaque
image source (44_host_operations.md R235, R239). -/
structure Load where
  loader : Nat
  chan   : Chan
  slot   : Slot
  source : Nat
  deriving DecidableEq, Repr

/-- An output event (60_exceptions.md R268, 40_controller_ports.md R138). -/
inductive Event where
  /-- `Account(kind, c, off, dir)` (R138). -/
  | account (k : Kind) (c : Chan) (off : Fin 8) (dir : Dir)
  /-- `Log(CommandNoDrive, c)` (R119). -/
  | commandNoDrive (c : Chan)
  /-- `Log(ResetNoDrive, c)` (R234). -/
  | resetNoDrive (c : Chan)
  /-- `Log(AttachChannelFull, c)` (R231). -/
  | attachChannelFull (c : Chan)
  /-- `Log(LoadNoDrive, c, s)` (R235). -/
  | loadNoDrive (c : Chan) (sl : Slot)
  /-- `Log(LoadFailed, c, s)` (R238). -/
  | loadFailed (c : Chan) (sl : Slot)
  deriving DecidableEq, Repr

/-- The load oracle's answer (44_host_operations.md R236 to R238). -/
inductive LoadAnswer where
  | ok (img : Image)
  | failed
  deriving DecidableEq, Repr

/-- One coming step of the environment (44_host_operations.md R230, R241, R243): a guest port access, a host
operation, or the completion of a pending load. -/
inductive Input where
  | guest (a : Access)
  | attach (c : Chan) (k : Kind) (img : Option Image)
  | detachAll (c : Chan) (k : Kind)
  | resetChannel (c : Chan)
  | loadImage (c : Chan) (sl : Slot) (source : Nat)
  | loadDone (loader : Nat) (answer : LoadAnswer)
  deriving DecidableEq, Repr

/-- The state. -/
structure State where
  primary      : Channel
  secondary    : Channel
  /-- Pending loads (R235, R239), oldest first. -/
  loads        : List Load
  /-- The identity the next loader agent gets. -/
  nextLoader   : Nat
  /-- The guest has stalled on a backing-store access and has no further step (R270). -/
  guestStalled : Bool
  /-- The environment's coming steps in their total order (20_memory.md R61; log 2). -/
  inputs       : List Input
  /-- The store oracle's coming answers, as far as the environment has fixed them (R56, R57; log 11). -/
  answers      : List StoreAnswer
  /-- How many store accesses have been made; selects the free answer when `answers` is empty (log 11). -/
  draws        : Nat
  /-- The results of the guest's reads (R243), newest first. -/
  reads        : List Dword
  /-- The event history (R268, R138), newest first. -/
  events       : List Event
  /-- The backing stores given back to the host (R233, R235; log 13), newest first. -/
  released     : List Memory
  /-- The parameters of 00_scope.md R7; no step changes them (log 1). -/
  cfg          : Config
  deriving DecidableEq, Repr

/-- The model faults (60_exceptions.md R269): they end the run faulted, never final. -/
inductive Fault where
  /-- An access size other than 1, 2 or 4: raised by every port instruction (R101). Safe: the spec has no meaning for it. -/
  | badAccessSize
  /-- An I/O fault of an HD store: raised by READ_SECTORS and WRITE_SECTORS (20_memory.md R56). Safe: the source gives no outcome. -/
  | hdStoreFault
  /-- An HD store whose length is not a multiple of 512: raised by an attach or a load completion of such a store
  (R242), and by an HD command on a sector that would run past the store's end (log 17). Safe: a partial sector has no meaning. -/
  | hdStoreLength
  deriving DecidableEq, Repr

/-- Refusals. -/
inductive Refusal where
  /-- The instruction has no meaning yet: raised by an arm of `exec` alone. Safe. -/
  | notModelled (mnemonic : String)
  deriving DecidableEq, Repr

/-- A channel at power-on (10_state.md R38): empty slots, `devCtl = 0x00`, master selected. The last two are the
spec's decision D8 (DESIGN CHOICE, log 7, unsafe). -/
def Channel.reset : Channel :=
  { master := none, slave := none, devCtl := 0x00, primarySelected := true }

/-- The state at power-on (10_state.md R38, 70_reset_and_hazards.md R290, R295): both channels as R38 says, no pending
load, nothing emitted, nothing read. The model's own fields are empty or zero (DESIGN CHOICE, log 20). -/
def State.reset : State :=
  { primary      := Channel.reset
    secondary    := Channel.reset
    loads        := []
    nextLoader   := 0
    guestStalled := false
    inputs       := []
    answers      := []
    draws        := 0
    reads        := []
    events       := []
    released     := []
    cfg          := Config.standard }

end Sys2Proof.Machine
end

