-- ==== Sys2Proof/Machine/Flags.lean ====
section
/-! DEFINITION. Status and error register values, and every computation of the status bits
(00_scope.md R10, R11; 10_state.md R27, R31). The block has no other flags. -/

namespace Sys2Proof.Machine

/-- Status bit 0, Error (00_scope.md R10). -/
def statusErr : Byte := 0x01
/-- Status bit 1, Index; no rule sets it (60_exceptions.md R264). -/
def statusIdx : Byte := 0x02
/-- Status bit 2, CorrectedData; no rule sets it. -/
def statusCorr : Byte := 0x04
/-- Status bit 3, DataRequest. -/
def statusDrq : Byte := 0x08
/-- Status bit 4, SeekComplete. -/
def statusDsc : Byte := 0x10
/-- Status bit 5, WriteFault; no rule sets it. -/
def statusDf : Byte := 0x20
/-- Status bit 6, Ready. -/
def statusDrdy : Byte := 0x40
/-- Status bit 7, Busy; no rule sets it. -/
def statusBsy : Byte := 0x80

/-- The error register with no error (00_scope.md R11). -/
def errNone : Byte := 0x00

/-- The bit position `ERR_BITS` gives a code (00_scope.md R7). -/
def errPosition (b : ErrBits) : ErrCode → Fin 8
  | .aborted => b.aborted
  | .mediaChange => b.mediaChange
  | .idNotFound => b.idNotFound
  | .mediaChanged => b.mediaChanged
  | .uncorrectable => b.uncorrectable
  | .badBlock => b.badBlock

/-- The error register value of a code: its single bit (10_state.md R31). -/
def errMask (b : ErrBits) (e : ErrCode) : Byte := 0x01#8 <<< (errPosition b e).val

/-- `status & ~DRQ` (41_buffer_protocol.md R140, R142). -/
def clearDrq (status : Byte) : Byte := status &&& ~~~statusDrq

/-- The SRST-release update `(status & ~BSY) | DRDY` (40_controller_ports.md R124, 90_conflicts.md C1). -/
def srstReleaseStatus (status : Byte) : Byte := (status &&& ~~~statusBsy) ||| statusDrdy

/-- The SRST bit of a device-control byte, bit 2 (10_state.md R22). -/
def srstBit (v : Byte) : Bool := v.getLsbD 2

/-- The drive-select bit of a Drive/Head byte, bit 4: 0 is the master (30_encoding.md R79). -/
def selectsMaster (v : Byte) : Bool := !v.getLsbD 4

end Sys2Proof.Machine
end

