-- ==== Sys2Proof/Machine/Operands.lean ====
section
/-! DEFINITION. Operand assembly (30_encoding.md R81, R82): the cylinder, the sector offsets, the transfer length and
the packet staged in the buffer. -/

namespace Sys2Proof.Machine

/-- The bytes of an HD sector, `HD_SECTOR` (00_scope.md R6). -/
def hdSector : Nat := 512

/-- The bytes of an ATAPI sector, `CD_SECTOR` (00_scope.md R6). -/
def cdSector : Nat := 2048

/-- The words of a buffer WRITE_SECTORS takes: one sector (42_hard_disk.md R163). -/
def hdBufferWords : Nat := 256

/-- `cyl(D) = (D.cylHigh << 8) | D.cylLow` (10_state.md R26). -/
def Drive.cyl (d : Drive) : BitVec 16 := joinBytes d.cylLow d.cylHigh

/-- `setCyl(D, v)`: `v mod 2^16` split into the two cylinder registers (10_state.md R26, D17). -/
def Drive.setCyl (d : Drive) (v : Nat) : Drive :=
  { d with cylLow := lowByte (BitVec.ofNat 16 v), cylHigh := highByte (BitVec.ofNat 16 v) }

/-- The byte offset of an HD command, `lba·512` with `lba = cyl(D)` (42_hard_disk.md R167). -/
def Drive.hdOffset (d : Drive) : Nat := d.cyl.toNat * hdSector

/-- The number of sectors of a READ: the length field, 0 meaning 1 (30_encoding.md R82). -/
def sectorsOf (len : BitVec 16) : Nat := if len = 0 then 1 else len.toNat

/-- Byte i of the active buffer, 0x00 past its end (43_atapi.md R193). -/
def bufferByte (bs : List Byte) (i : Nat) : Byte := bs.getD i 0x00

/-- The packet a PACKET command takes: the first 12 bytes of the active buffer, whatever the cursor
(43_atapi.md R193, D22). -/
def packetOfBuffer (buf : List Word) : Vector Byte 12 :=
  let bs := bytesOf buf
  #v[bufferByte bs 0, bufferByte bs 1, bufferByte bs 2, bufferByte bs 3, bufferByte bs 4, bufferByte bs 5,
     bufferByte bs 6, bufferByte bs 7, bufferByte bs 8, bufferByte bs 9, bufferByte bs 10, bufferByte bs 11]

end Sys2Proof.Machine
end

