-- ==== Sys2Proof/Machine/Ops.lean ====
section
/-! DEFINITION. The shared operations: backing stores, sector buffer, drive selection, the error entry `fail`, resets,
and the accessors through which every instruction reads and writes the state. -/

namespace Sys2Proof.Machine

/-- What a meaning answers. -/
abbrev Result := Host.Outcome State Fault Refusal

/-! ### Backing stores (20_memory.md R56 to R58, R67) -/

/-- The byte a list of cells holds at an address, 0x00 where none is listed (log 15). -/
def cellAt : List Host.Cell → Nat → Byte
  | [], _ => 0x00
  | (a, b) :: rest, x => if a = x then b else cellAt rest x

/-- The cells with one byte replaced, kept in the canonical form: sorted, and no 0x00 listed. -/
def putCell : List Host.Cell → Nat → Byte → List Host.Cell
  | [], x, v => if v = 0x00 then [] else [(x, v)]
  | (a, b) :: rest, x, v =>
    if a < x then (a, b) :: putCell rest x v
    else if a = x then (if v = 0x00 then rest else (x, v) :: rest)
    else if v = 0x00 then (a, b) :: rest
    else (x, v) :: (a, b) :: rest

/-- Whether the addresses of a list of cells rise strictly from a bound, stay below a limit, and list no 0x00. -/
def cellsWf (lo limit : Nat) : List Host.Cell → Bool
  | [] => true
  | (a, b) :: rest => decide (lo ≤ a) && decide (a < limit) && (b != 0x00) && cellsWf (a + 1) limit rest

/-- The canonical form of a backing store. -/
def Memory.wf (m : Memory) : Bool := cellsWf 0 m.len m.cells

/-- Byte `a` of a backing store. Addresses at or past `len` do not exist; every access below checks that first. -/
def Memory.byteAt (m : Memory) (a : Nat) : Byte := cellAt m.cells a

/-- One byte written, if the address exists. -/
def Memory.writeByte (m : Memory) (a : Nat) (v : Byte) : Memory :=
  if a < m.len then { m with cells := putCell m.cells a v } else m

/-- `h[off..off+n)` (00_scope.md R8). -/
def Memory.readBytes (m : Memory) (off n : Nat) : List Byte := (List.range n).map fun i => m.byteAt (off + i)

/-- Bytes written from `off` on, all at once and durably (20_memory.md R58). -/
def Memory.writeBytes (m : Memory) (off : Nat) : List Byte → Memory
  | [] => m
  | b :: bs => (m.writeByte off b).writeBytes (off + 1) bs

/-- The backing store the host hands over, in canonical form (log 15). -/
def Memory.ofImage (img : Image) : Memory :=
  img.cells.foldl (fun m c => m.writeByte c.1 c.2) { len := img.len, cells := [] }

/-- The bytes an ATAPI image gives for a read: `h[off .. min(off+n, len(h)))` (20_memory.md R57). -/
def Memory.readClipped (m : Memory) (off n : Nat) : List Byte := m.readBytes off (min (off + n) m.len - off)

/-! ### Sector buffer (10_state.md R28; 41_buffer_protocol.md) -/

/-- `stage(D, ws)` (10_state.md R28). -/
def Drive.stage (d : Drive) (ws : List Word) : Drive := { d with buf := ws, cur := 0 }

/-- `discard(D)` (10_state.md R28). -/
def Drive.discard (d : Drive) : Drive := { d with buf := [], cur := 0 }

/-- `finishRead(D)`: status becomes Ready, for both backends (41_buffer_protocol.md R145). -/
def Drive.finishRead (d : Drive) : Drive := { d with status := statusDrdy }

/-- `finishCommand(D)`: status becomes Ready, for both backends (41_buffer_protocol.md R145). -/
def Drive.finishCommand (d : Drive) : Drive := { d with status := statusDrdy }

/-- `EARLY_FINISH(k, y)` in either reading (41_buffer_protocol.md R141). -/
def earlyFinishFires (e : EarlyFinish) (k : Nat) (y : BitVec 16) : Bool :=
  match e with
  | .atThreshold => 2 * k == y.toNat
  | .fromThreshold => y != 0 && decide (y.toNat ≤ 2 * k)

/-- The early-finish part of a data read (41_buffer_protocol.md R140), on the drive after the cursor has moved. -/
def Drive.earlyFinish (e : EarlyFinish) (d : Drive) : Drive :=
  if earlyFinishFires e d.cur d.cyl then
    ({ d with status := clearDrq d.status }.finishRead).setCyl (2 * (d.buf.length - d.cur))
  else d

/-- The end-of-buffer part of a data read (41_buffer_protocol.md R140). -/
def Drive.endOfRead (d : Drive) : Drive :=
  if d.cur = d.buf.length then { d with status := clearDrq d.status }.finishRead else d

/-- `bufRead(D)` (41_buffer_protocol.md R140): the word read and the drive after it. -/
def Drive.bufRead (e : EarlyFinish) (d : Drive) : Word × Drive :=
  if d.buf.length ≤ d.cur then (0, d)
  else (d.buf.getD d.cur 0, ({ d with cur := d.cur + 1 }.earlyFinish e).endOfRead)

/-- The end-of-buffer part of a data write (41_buffer_protocol.md R142). -/
def Drive.endOfWrite (d : Drive) : Drive :=
  if d.cur = d.buf.length then { d with status := clearDrq d.status }.finishCommand else d

/-- `bufWrite(D, w)` (41_buffer_protocol.md R142). -/
def Drive.bufWrite (d : Drive) (w : Word) : Drive :=
  if d.buf.length ≤ d.cur then d
  else { d with buf := d.buf.set d.cur w, cur := d.cur + 1 }.endOfWrite

/-! ### Outcomes of a command (60_exceptions.md) -/

/-- `fail(D, code)` (60_exceptions.md R262), the block's one error entry: status becomes exactly 0x01, the error
register gets the code, and the buffer is discarded. Nothing is saved and there is no return (R265): the next command
or a reset recovers. -/
def Drive.fail (cfg : Config) (e : ErrCode) (d : Drive) : Drive :=
  { d with status := statusErr, error := errMask cfg.errBits e }.discard

/-- The common end of a command that stages data: `stage(D, ws)`, status `DRQ | DRDY`, error none
(42_hard_disk.md R162, R164; 43_atapi.md R192, R195, R198). -/
def Drive.succeedWith (ws : List Word) (d : Drive) : Drive :=
  { d.stage ws with status := statusDrq ||| statusDrdy, error := errNone }

/-- The end of a successful WRITE_SECTORS: status Ready, error none, buffer and cursor kept (42_hard_disk.md R163). -/
def Drive.writeDone (d : Drive) : Drive := { d with status := statusDrdy, error := errNone }

/-- `hdReset(D)` (42_hard_disk.md R160). -/
def Drive.hdReset (d : Drive) : Drive :=
  ({ d with status := statusDrdy, error := errNone }.setCyl 0).discard

/-- `cdReset(D)` (43_atapi.md R190). -/
def Drive.cdReset (d : Drive) : Drive :=
  { d with cylHigh := 0xEB, cylLow := 0x14, status := statusDrdy ||| statusDsc, error := errNone }.discard

/-- The Reset of the drive's own backend (40_controller_ports.md R120). -/
def Drive.backendReset (d : Drive) : Drive :=
  match d.kind with
  | .hd => d.hdReset
  | .atapi => d.cdReset

/-- `cdLoadStage(D)` (43_atapi.md R203), the body of IDENTIFY_PACKET_DEVICE (R192). -/
def Drive.cdLoadStage (cfg : Config) (d : Drive) : Drive := d.succeedWith cfg.cdIdentify.toList

/-- `newDrive(kind, media)` (10_state.md R37): every register `CONSTRUCT_VALUE`, no buffer, a zero packet. -/
def newDrive (cfg : Config) (k : Kind) (media : Media) : Drive :=
  { kind := k
    error := cfg.constructValue, sectorCount := cfg.constructValue, sectorNumber := cfg.constructValue
    cylLow := cfg.constructValue, cylHigh := cfg.constructValue, driveHead := cfg.constructValue
    status := cfg.constructValue
    buf := [], cur := 0, packet := #v[0, 0, 0, 0, 0, 0, 0, 0, 0, 0, 0, 0], media := media }

/-! ### Slots and channels (10_state.md R21 to R23) -/

/-- `slot[c][s]` of a channel. -/
def Channel.slot (ch : Channel) : Slot → Option Drive
  | .master => ch.master
  | .slave => ch.slave

/-- A slot replaced. -/
def Channel.setSlot (ch : Channel) (sl : Slot) (d : Option Drive) : Channel :=
  match sl with
  | .master => { ch with master := d }
  | .slave => { ch with slave := d }

/-- Drive selection `sel(c)` (40_controller_ports.md R102): with the master selected, the master, else the slave as
fallback; with the slave selected, the slave only (D6). -/
def Channel.sel (ch : Channel) : Option (Slot × Drive) :=
  if ch.primarySelected then
    match ch.master with
    | some d => some (.master, d)
    | none => ch.slave.map fun d => (.slave, d)
  else ch.slave.map fun d => (.slave, d)

/-- Every present drive of a channel changed in the same way. -/
def Channel.mapDrives (ch : Channel) (f : Drive → Drive) : Channel :=
  { ch with master := ch.master.map f, slave := ch.slave.map f }

/-- The lowest empty slot (44_host_operations.md R231, D9). -/
def Channel.freeSlot (ch : Channel) : Option Slot :=
  if ch.master.isNone then some .master
  else if ch.slave.isNone then some .slave
  else none

/-! ### The state's accessors -/

/-- A channel of the state. -/
def State.chan (s : State) : Chan → Channel
  | .primary => s.primary
  | .secondary => s.secondary

/-- A channel replaced. -/
def State.setChan (s : State) (c : Chan) (ch : Channel) : State :=
  match c with
  | .primary => { s with primary := ch }
  | .secondary => { s with secondary := ch }

/-- The drive in a slot. -/
def State.driveAt (s : State) (c : Chan) (sl : Slot) : Option Drive := (s.chan c).slot sl

/-- A slot of a channel replaced. -/
def State.setSlot (s : State) (c : Chan) (sl : Slot) (d : Option Drive) : State :=
  s.setChan c ((s.chan c).setSlot sl d)

/-- A drive stored in its slot. -/
def State.setDrive (s : State) (c : Chan) (sl : Slot) (d : Drive) : State := s.setSlot c sl (some d)

/-- The selected drive of a channel and its slot (40_controller_ports.md R102). -/
def State.sel (s : State) (c : Chan) : Option (Slot × Drive) := (s.chan c).sel

/-- `emit E` (00_scope.md R9). -/
def State.emit (s : State) (e : Event) : State := { s with events := e :: s.events }

/-- The read result given back to the guest (40_controller_ports.md R100). -/
def State.reply (s : State) (v : Dword) : State := { s with reads := v :: s.reads }

/-- A backing store given back to the host when a drive's medium is taken away (44_host_operations.md R233, R235). -/
def State.release (s : State) (m : Media) : State :=
  match m with
  | .attached mem => { s with released := mem :: s.released }
  | .loading | .unattached => s

/-- The guest's access never returns (60_exceptions.md R270). -/
def State.stall (s : State) : State := { s with guestStalled := true }

/-! ### The store oracle (20_memory.md R56, R57; log 11) -/

/-- The answer of the next backing-store access: the environment's, or the free one. -/
def State.nextAnswer (s : State) : StoreAnswer := s.answers.headD (Config.freeStoreAnswer s.draws)

/-- The state after one backing-store access has been answered. -/
def State.afterDraw (s : State) : State := { s with answers := s.answers.tail, draws := s.draws + 1 }

/-! ### Shared shapes of the port instructions (40_controller_ports.md R101 to R116) -/

/-- The size check before an access (40_controller_ports.md R101). -/
def whenAdmitted (size : Nat) (r : Result) : Result := if admittedSize size then r else .fault .badAccessSize

/-- A read of an 8-bit register of the selected drive: zero-extended, 0 with no drive (R103, R106 to R116). -/
def regRead (c : Chan) (size : Nat) (reg : Drive → Byte) (s : State) : Result :=
  whenAdmitted size <| .next <|
    match s.sel c with
    | none => s.reply 0
    | some (_, d) => s.reply ((reg d).setWidth 32)

/-- A write of an 8-bit register of the selected drive: `value[7:0]`, dropped with no drive (R103, R109 to R115). -/
def regWrite (c : Chan) (size : Nat) (value : Dword) (put : Byte → Drive → Drive) (s : State) : Result :=
  whenAdmitted size <| .next <|
    match s.sel c with
    | none => s
    | some (sl, d) => s.setDrive c sl (put (valueByte value) d)

/-- A command run on the selected drive if it is of the backend that has it. On the other backend the same command
byte aborts (30_encoding.md R74); with no drive the command is logged and does nothing (R103, R119; log 6). -/
def onBackend (c : Chan) (k : Kind) (s : State) (run : Slot → Drive → Result) : Result :=
  match s.sel c with
  | none => .next (s.emit (.commandNoDrive c))
  | some (sl, d) => if d.kind = k then run sl d else .next (s.setDrive c sl (d.fail s.cfg .aborted))

/-! ### Channel reset and SRST -/

/-- `resetChannel(c)` (44_host_operations.md R234): each present drive gets its backend's Reset; an empty channel logs. -/
def State.resetChannel (s : State) (c : Chan) : State :=
  if (s.chan c).master.isNone && (s.chan c).slave.isNone then s.emit (.resetNoDrive c)
  else s.setChan c ((s.chan c).mapDrives Drive.backendReset)

/-- `srstRelease(c)` (40_controller_ports.md R124). -/
def State.srstRelease (s : State) (c : Chan) : State :=
  s.setChan c ((s.chan c).mapDrives fun d => { d with status := srstReleaseStatus d.status })

end Sys2Proof.Machine
end

