-- ==== Sys2Proof/Machine/Atapi.lean ====
section
/-! DEFINITION. The ATA and packet commands of the optical backend (43_atapi.md R190 to R204), as run on the selected drive. -/

namespace Sys2Proof.Machine

/-- IDENTIFY_PACKET_DEVICE (43_atapi.md R192): stages `CD_IDENTIFY`; it needs no image (D21). -/
def execIdentifyPacketDevice (c : Chan) (s : State) : Result :=
  onBackend c .atapi s fun sl d => .next (s.setDrive c sl (d.cdLoadStage s.cfg))

/-- INQUIRY (R195): stages the 36 bytes of `INQUIRY_DATA` as 18 words; it needs no image (D21). -/
def execInquiry (c : Chan) (s : State) : Result :=
  onBackend c .atapi s fun sl d => .next (s.setDrive c sl (d.succeedWith (words s.cfg.inquiryData.toList)))

/-- The stream access of `cdRead` (R198, R202; 20_memory.md R57), after the media check. -/
def cdReadAccess (c : Chan) (sl : Slot) (d : Drive) (m : Memory) (lba n : Nat) (s : State) : Result :=
  match s.nextAnswer with
  | .stall => .next s.afterDraw.stall
  | .ioFault => .next (s.afterDraw.setDrive c sl (d.fail s.cfg .badBlock))
  | .ok =>
    let bs := m.readClipped (lba * cdSector) (n * cdSector)
    if bs.length < n * cdSector then .next (s.afterDraw.setDrive c sl (d.fail s.cfg .uncorrectable))
    else .next (s.afterDraw.setDrive c sl (d.succeedWith (words bs)))

/-- `cdRead(D, lba, n)` (R198), shared by READ(10) and READ(12). -/
def cdRead (c : Chan) (lba n : Nat) (s : State) : Result :=
  onBackend c .atapi s fun sl d =>
    match d.media with
    | .unattached | .loading => .next (s.setDrive c sl (d.fail s.cfg .aborted))
    | .attached m => cdReadAccess c sl d m lba n s

/-- READ(10) (R196): the length field 0 means one sector (30_encoding.md R82). -/
def execRead10 (c : Chan) (lba : Dword) (len : BitVec 16) (s : State) : Result :=
  cdRead c lba.toNat (sectorsOf len) s

/-- READ(12) (R197): the length field 0 means one sector (30_encoding.md R82). -/
def execRead12 (c : Chan) (lba : Dword) (len : BitVec 16) (s : State) : Result :=
  cdRead c lba.toNat (sectorsOf len) s

/-- PKT_ABORT_OTHER (R199): an unrecognized packet opcode aborts, image or not. -/
def execPktAbortOther (c : Chan) (_pop : Byte) (s : State) : Result :=
  onBackend c .atapi s fun sl d => .next (s.setDrive c sl (d.fail s.cfg .aborted))

/-- `cdPacket(D)` (R194): dispatch on the packet opcode, with the operands of 30_encoding.md R82. -/
def cdRunPacket (c : Chan) (p : Vector Byte 12) (s : State) : Result :=
  if p[0] = 0x12 then execInquiry c s
  else if p[0] = 0x28 then execRead10 c (packetLba p) (packetLen10 p) s
  else if p[0] = 0xA8 then execRead12 c (packetLba p) (packetLen12 p) s
  else execPktAbortOther c p[0] s

/-- PACKET (R193): `D.packet` becomes the first 12 bytes of the active buffer (D22), and the packet is run. -/
def execPacket (c : Chan) (s : State) : Result :=
  onBackend c .atapi s fun sl d =>
    let p := packetOfBuffer d.buf
    cdRunPacket c p (s.setDrive c sl { d with packet := p })

/-- ATAPI_ABORT_OTHER (R200): any other opcode aborts. -/
def execAtapiAbortOther (c : Chan) (_op : Byte) (s : State) : Result :=
  onBackend c .atapi s fun sl d => .next (s.setDrive c sl (d.fail s.cfg .aborted))

/-- `cdRunCommand(D, op)` (R191) on the selected drive of a channel. -/
def cdRunCommand (c : Chan) (op : Byte) (s : State) : Result :=
  if op = 0xA1 then execIdentifyPacketDevice c s
  else if op = 0xA0 then execPacket c s
  else execAtapiAbortOther c op s

end Sys2Proof.Machine
end

