-- ==== Sys2Proof/Machine/HardDisk.lean ====
section
/-! DEFINITION. The ATA commands of the hard-disk backend (42_hard_disk.md R160 to R171), as run on the selected drive. -/

namespace Sys2Proof.Machine

/-- The store access of READ_SECTORS (42_hard_disk.md R162, 20_memory.md R56), after the media and range checks. -/
def hdReadAccess (c : Chan) (sl : Slot) (d : Drive) (m : Memory) (s : State) : Result :=
  match s.nextAnswer with
  | .stall => .next s.afterDraw.stall
  | .ioFault => .fault .hdStoreFault
  | .ok =>
    if d.hdOffset + hdSector ≤ m.len then
      .next (s.afterDraw.setDrive c sl (d.succeedWith (words (m.readBytes d.hdOffset hdSector))))
    else .fault .hdStoreLength

/-- READ_SECTORS (R162): media (R166), then range (R168), then the store. -/
def execReadSectors (c : Chan) (s : State) : Result :=
  onBackend c .hd s fun sl d =>
    match d.media with
    | .unattached | .loading => .next (s.setDrive c sl (d.fail s.cfg .aborted))
    | .attached m =>
      if m.len ≤ d.hdOffset then .next (s.setDrive c sl (d.fail s.cfg .idNotFound))
      else hdReadAccess c sl d m s

/-- The store access of WRITE_SECTORS (42_hard_disk.md R163, 20_memory.md R56, R58), after the checks. -/
def hdWriteAccess (c : Chan) (sl : Slot) (d : Drive) (m : Memory) (s : State) : Result :=
  match s.nextAnswer with
  | .stall => .next s.afterDraw.stall
  | .ioFault => .fault .hdStoreFault
  | .ok =>
    if d.hdOffset + hdSector ≤ m.len then
      .next (s.afterDraw.setDrive c sl
        { d.writeDone with media := .attached (m.writeBytes d.hdOffset (bytesOf d.buf)) })
    else .fault .hdStoreLength

/-- WRITE_SECTORS (R163): media (R166), then range (R168), then the 256-word buffer (D20, D37), then the store. -/
def execWriteSectors (c : Chan) (s : State) : Result :=
  onBackend c .hd s fun sl d =>
    match d.media with
    | .unattached | .loading => .next (s.setDrive c sl (d.fail s.cfg .aborted))
    | .attached m =>
      if m.len ≤ d.hdOffset then .next (s.setDrive c sl (d.fail s.cfg .idNotFound))
      else if d.buf.length ≠ hdBufferWords then .next (s.setDrive c sl (d.fail s.cfg .aborted))
      else hdWriteAccess c sl d m s

/-- IDENTIFY_DEVICE (R164): stages `HD_IDENTIFY`; it needs no store (D21). -/
def execIdentifyDevice (c : Chan) (s : State) : Result :=
  onBackend c .hd s fun sl d => .next (s.setDrive c sl (d.succeedWith s.cfg.hdIdentify.toList))

/-- HD_ABORT_OTHER (R165): any other opcode aborts. -/
def execHdAbortOther (c : Chan) (_op : Byte) (s : State) : Result :=
  onBackend c .hd s fun sl d => .next (s.setDrive c sl (d.fail s.cfg .aborted))

/-- `hdRunCommand(D, op)` (R161) on the selected drive of a channel. -/
def hdRunCommand (c : Chan) (op : Byte) (s : State) : Result :=
  if op = 0x20 then execReadSectors c s
  else if op = 0x30 then execWriteSectors c s
  else if op = 0xEC then execIdentifyDevice c s
  else execHdAbortOther c op s

end Sys2Proof.Machine
end

