-- ==== Sys2Proof/Machine/Command.lean ====
section
/-! DEFINITION. The command register and the command dispatch (40_controller_ports.md R119, R120). -/

namespace Sys2Proof.Machine

/-- `runCommand(D, op)` (R120): the backend of the drive decides. -/
def runCommand (c : Chan) (k : Kind) (op : Byte) (s : State) : Result :=
  match k with
  | .hd => hdRunCommand c op s
  | .atapi => cdRunCommand c op s

/-- COMMAND_WR (R119): with no drive the write is logged and does nothing else; else the accounting event (R138) and
then the command `value[7:0]` (30_encoding.md R73), to its end within this step (20_memory.md R60). -/
def execCommandWr (c : Chan) (size : Nat) (value : Dword) (s : State) : Result :=
  whenAdmitted size <|
    match s.sel c with
    | none => .next (s.emit (.commandNoDrive c))
    | some (_, d) => runCommand c d.kind (valueByte value) (s.emit (.account d.kind c 7 .write))

end Sys2Proof.Machine
end

