-- ==== Sys2Proof/Machine/Control.lean ====
section
/-! DEFINITION. The control port and the ports outside the map (40_controller_ports.md R121 to R126). -/

namespace Sys2Proof.Machine

/-- DEVCTL_RD (R121): the stored byte, with or without a drive. -/
def execDevctlRd (c : Chan) (size : Nat) (s : State) : Result :=
  whenAdmitted size (.next (s.reply ((s.chan c).devCtl.setWidth 32)))

/-- The device-control byte stored verbatim (R122). -/
def State.storeDevCtl (s : State) (c : Chan) (v : Byte) : State := s.setChan c { s.chan c with devCtl := v }

/-- DEVCTL_WR (R122): the byte is stored, a 0→1 edge of SRST resets the channel (R123), a 1→0 edge readies its drives
(R124); 0→0 and 1→1 do nothing else. -/
def execDevctlWr (c : Chan) (size : Nat) (value : Dword) (s : State) : Result :=
  whenAdmitted size <| .next <|
    let v := valueByte value
    let s1 := s.storeDevCtl c v
    match srstBit (s.chan c).devCtl, srstBit v with
    | false, true => s1.resetChannel c
    | true, false => s1.srstRelease c
    | false, false => s1
    | true, true => s1

/-- UNMAPPED_RD (R125, D5): 0. -/
def execUnmappedRd (_port : BitVec 16) (size : Nat) (s : State) : Result := whenAdmitted size (.next (s.reply 0))

/-- UNMAPPED_WR (R126, D5): ignored. -/
def execUnmappedWr (_port : BitVec 16) (size : Nat) (_value : Dword) (s : State) : Result := whenAdmitted size (.next s)

end Sys2Proof.Machine
end

