-- ==== Sys2Proof/Machine/TaskFile.lean ====
section
/-! DEFINITION. The task-file port instructions at offsets 0 to 7 but for the command register
(40_controller_ports.md R104 to R118). -/

namespace Sys2Proof.Machine

/-- DATA_RD (R104): the accounting event (R138), then `bufRead` on the selected drive; any admitted size moves one word. -/
def execDataRd (c : Chan) (size : Nat) (s : State) : Result :=
  whenAdmitted size <| .next <|
    match s.sel c with
    | none => s.reply 0
    | some (sl, d) =>
      let r := d.bufRead s.cfg.earlyFinish
      ((s.emit (.account d.kind c 0 .read)).setDrive c sl r.2).reply (r.1.setWidth 32)

/-- DATA_WR (R105): the accounting event (R138), then `bufWrite` of `value[15:0]` on the selected drive. -/
def execDataWr (c : Chan) (size : Nat) (value : Dword) (s : State) : Result :=
  whenAdmitted size <| .next <|
    match s.sel c with
    | none => s
    | some (sl, d) => (s.emit (.account d.kind c 0 .write)).setDrive c sl (d.bufWrite (valueWord value))

/-- ERROR_RD (R106, D2): the error register. -/
def execErrorRd (c : Chan) (size : Nat) (s : State) : Result := regRead c size Drive.error s

/-- PRECOMP_WR (R107): ignored. -/
def execPrecompWr (_c : Chan) (size : Nat) (_value : Dword) (s : State) : Result := whenAdmitted size (.next s)

/-- SECCNT_RD (R108). -/
def execSeccntRd (c : Chan) (size : Nat) (s : State) : Result := regRead c size Drive.sectorCount s

/-- SECCNT_WR (R109). -/
def execSeccntWr (c : Chan) (size : Nat) (value : Dword) (s : State) : Result :=
  regWrite c size value (fun b d => { d with sectorCount := b }) s

/-- SECNUM_RD (R110). -/
def execSecnumRd (c : Chan) (size : Nat) (s : State) : Result := regRead c size Drive.sectorNumber s

/-- SECNUM_WR (R111). -/
def execSecnumWr (c : Chan) (size : Nat) (value : Dword) (s : State) : Result :=
  regWrite c size value (fun b d => { d with sectorNumber := b }) s

/-- CYLLO_RD (R112). -/
def execCylloRd (c : Chan) (size : Nat) (s : State) : Result := regRead c size Drive.cylLow s

/-- CYLLO_WR (R113). -/
def execCylloWr (c : Chan) (size : Nat) (value : Dword) (s : State) : Result :=
  regWrite c size value (fun b d => { d with cylLow := b }) s

/-- CYLHI_RD (R114). -/
def execCylhiRd (c : Chan) (size : Nat) (s : State) : Result := regRead c size Drive.cylHigh s

/-- CYLHI_WR (R115). -/
def execCylhiWr (c : Chan) (size : Nat) (value : Dword) (s : State) : Result :=
  regWrite c size value (fun b d => { d with cylHigh := b }) s

/-- DRVHD_RD (R116). -/
def execDrvhdRd (c : Chan) (size : Nat) (s : State) : Result := regRead c size Drive.driveHead s

/-- The selection part of a Drive/Head write, `primarySelected[c] <- (v[4] = 0)` (R117; 10_state.md R23). -/
def State.select (s : State) (c : Chan) (v : Byte) : State :=
  s.setChan c { s.chan c with primarySelected := selectsMaster v }

/-- DRVHD_WR (R117): the selection first, drive or no drive, then the byte to the newly selected drive. -/
def execDrvhdWr (c : Chan) (size : Nat) (value : Dword) (s : State) : Result :=
  whenAdmitted size <| .next <|
    let v := valueByte value
    let s1 := s.select c v
    match s1.sel c with
    | none => s1
    | some (sl, d) => s1.setDrive c sl { d with driveHead := v }

/-- STATUS_RD (R118): the accounting event (R138), then the status register; no side effect on it (D38). -/
def execStatusRd (c : Chan) (size : Nat) (s : State) : Result :=
  whenAdmitted size <| .next <|
    match s.sel c with
    | none => s.reply 0
    | some (_, d) => (s.emit (.account d.kind c 7 .read)).reply (d.status.setWidth 32)

end Sys2Proof.Machine
end

