-- ==== Sys2Proof/Machine/Dispatch.lean ====
section
/-! DEFINITION. The dispatch: one arm per constructor of Instr. -/

namespace Sys2Proof.Machine

def exec (i : Instr) (s : State) : Host.Outcome State Fault Refusal :=
  match i with
  -- format `port`
  | .dataRd c size => Sys2Proof.Machine.execDataRd c size s
  | .dataWr c size value => Sys2Proof.Machine.execDataWr c size value s
  | .errorRd c size => Sys2Proof.Machine.execErrorRd c size s
  | .precompWr c size value => Sys2Proof.Machine.execPrecompWr c size value s
  | .seccntRd c size => Sys2Proof.Machine.execSeccntRd c size s
  | .seccntWr c size value => Sys2Proof.Machine.execSeccntWr c size value s
  | .secnumRd c size => Sys2Proof.Machine.execSecnumRd c size s
  | .secnumWr c size value => Sys2Proof.Machine.execSecnumWr c size value s
  | .cylloRd c size => Sys2Proof.Machine.execCylloRd c size s
  | .cylloWr c size value => Sys2Proof.Machine.execCylloWr c size value s
  | .cylhiRd c size => Sys2Proof.Machine.execCylhiRd c size s
  | .cylhiWr c size value => Sys2Proof.Machine.execCylhiWr c size value s
  | .drvhdRd c size => Sys2Proof.Machine.execDrvhdRd c size s
  | .drvhdWr c size value => Sys2Proof.Machine.execDrvhdWr c size value s
  | .statusRd c size => Sys2Proof.Machine.execStatusRd c size s
  | .commandWr c size value => Sys2Proof.Machine.execCommandWr c size value s
  | .devctlRd c size => Sys2Proof.Machine.execDevctlRd c size s
  | .devctlWr c size value => Sys2Proof.Machine.execDevctlWr c size value s
  | .unmappedRd port size => Sys2Proof.Machine.execUnmappedRd port size s
  | .unmappedWr port size value => Sys2Proof.Machine.execUnmappedWr port size value s
  -- format `ata_cmd`
  | .readSectors c => Sys2Proof.Machine.execReadSectors c s
  | .writeSectors c => Sys2Proof.Machine.execWriteSectors c s
  | .identifyDevice c => Sys2Proof.Machine.execIdentifyDevice c s
  | .hdAbortOther c op => Sys2Proof.Machine.execHdAbortOther c op s
  | .packet c => Sys2Proof.Machine.execPacket c s
  | .identifyPacketDevice c => Sys2Proof.Machine.execIdentifyPacketDevice c s
  | .atapiAbortOther c op => Sys2Proof.Machine.execAtapiAbortOther c op s
  -- format `atapi_pkt`
  | .inquiry c => Sys2Proof.Machine.execInquiry c s
  | .read10 c lba len => Sys2Proof.Machine.execRead10 c lba len s
  | .read12 c lba len => Sys2Proof.Machine.execRead12 c lba len s
  | .pktAbortOther c pop => Sys2Proof.Machine.execPktAbortOther c pop s

end Sys2Proof.Machine
end

