-- ==== Sys2Proof/Machine/HostOps.lean ====
section
/-! DEFINITION. The host operations and the load completions (44_host_operations.md R231 to R240), each one atomic step.
They are reached by no instruction, but for reset(channel), which an SRST edge also invokes (R123). -/

namespace Sys2Proof.Machine

/-- Whether a store may be attached to a drive of this kind: an HD store's length is a multiple of 512 (R242, D19). -/
def admittedImage (k : Kind) (img : Image) : Bool :=
  match k with
  | .hd => img.len % hdSector == 0
  | .atapi => true

/-- The initial media of an attach: a handle, or none, which means Unattached (R231). -/
def initialMedia : Option Image → Media
  | none => .unattached
  | some img => .attached (Memory.ofImage img)

/-- A new drive as `attach` leaves it: an ATAPI drive is reset at once (R231, R232), an HD drive is not. -/
def attachedDrive (cfg : Config) (k : Kind) (img : Option Image) : Drive :=
  match k with
  | .hd => newDrive cfg .hd (initialMedia img)
  | .atapi => (newDrive cfg .atapi (initialMedia img)).cdReset

/-- `attach(c, kind, media)` (R231): the lowest empty slot; a full channel logs. The full channel is tested first
(log 16). -/
def hostAttach (c : Chan) (k : Kind) (img : Option Image) (s : State) : Result :=
  match (s.chan c).freeSlot with
  | none => .next (s.emit (.attachChannelFull c))
  | some sl =>
    if img.all (admittedImage k) then .next (s.setDrive c sl (attachedDrive s.cfg k img))
    else .fault .hdStoreLength

/-- One slot of `detach_all(c, kind)` (R233): a drive of that kind is destroyed, its pending loads are dropped (R239),
its medium goes back to the host. -/
def detachSlot (c : Chan) (k : Kind) (sl : Slot) (s : State) : State :=
  match s.driveAt c sl with
  | none => s
  | some d =>
    if d.kind = k then
      { (s.release d.media).setSlot c sl none with
          loads := s.loads.filter fun l => !(l.chan == c && l.slot == sl) }
    else s

/-- `detach_all(c, kind)` (R233). -/
def hostDetachAll (c : Chan) (k : Kind) (s : State) : Result :=
  .next (detachSlot c k .slave (detachSlot c k .master s))

/-- `reset(c)` (R234). -/
def hostReset (c : Chan) (s : State) : Result := .next (s.resetChannel c)

/-- `LoadImage(c, s, source)` start (R235): media Loading, the previous handle released, one more loader agent. -/
def hostLoadImage (c : Chan) (sl : Slot) (source : Nat) (s : State) : Result :=
  match s.driveAt c sl with
  | none => .next (s.emit (.loadNoDrive c sl))
  | some d =>
    .next { (s.release d.media).setDrive c sl { d with media := .loading } with
      loads := s.loads ++ [⟨s.nextLoader, c, sl, source⟩]
      nextLoader := s.nextLoader + 1 }

/-- A successful completion on its target drive (R236 ATAPI, R237 HD). -/
def loadSucceeds (c : Chan) (sl : Slot) (d : Drive) (img : Image) (s : State) : Result :=
  if admittedImage d.kind img then
    let d1 := { d with media := .attached (Memory.ofImage img) }
    match d.kind with
    | .hd => .next ((s.release d.media).setDrive c sl d1)
    | .atapi => .next ((s.release d.media).setDrive c sl (d1.cdLoadStage s.cfg))
  else .fault .hdStoreLength

/-- A failed completion on its target drive (R238). -/
def loadFails (c : Chan) (sl : Slot) (d : Drive) (s : State) : Result :=
  .next (((s.release d.media).setDrive c sl { d with media := .unattached }).emit (.loadFailed c sl))

/-- The completion step of a loader agent (R236 to R239). A loader that does not exist, or whose drive is gone, has no
step: nothing happens (log 21). -/
def loadDone (loader : Nat) (answer : LoadAnswer) (s : State) : Result :=
  match s.loads.find? fun l => l.loader == loader with
  | none => .next s
  | some l =>
    let s1 := { s with loads := s.loads.filter fun x => x.loader != loader }
    match s1.driveAt l.chan l.slot with
    | none => .next s1
    | some d =>
      match answer with
      | .ok img => loadSucceeds l.chan l.slot d img s1
      | .failed => loadFails l.chan l.slot d s1

end Sys2Proof.Machine
end

