-- ==== Sys2Proof/Machine/Fetch.lean ====
section
/-! DEFINITION. Which input the next step performs, the host and loader steps, and how a word of the opcode table is
placed as the next input. Step.lean only calls these. -/

namespace Sys2Proof.Machine

/-- The next enabled input and the inputs left. The inputs stand in their total order (20_memory.md R61). A stalled
guest has no further step, while host and loader agents may still step (60_exceptions.md R270): its accesses stay
where they are and the first other input is taken (log 19). -/
def nextInput (stalled : Bool) : List Input → Option (Input × List Input)
  | [] => none
  | .guest a :: rest =>
    if stalled then (nextInput stalled rest).map fun p => (p.1, .guest a :: p.2)
    else some (.guest a, rest)
  | .attach c k img :: rest => some (.attach c k img, rest)
  | .detachAll c k :: rest => some (.detachAll c k, rest)
  | .resetChannel c :: rest => some (.resetChannel c, rest)
  | .loadImage c sl source :: rest => some (.loadImage c sl source, rest)
  | .loadDone l ans :: rest => some (.loadDone l ans, rest)

/-- The master of a channel selected. -/
def State.selectMaster (s : State) (c : Chan) : State := s.setChan c { s.chan c with primarySelected := true }

/-- The state in which the selected drive of a channel is of a given kind, for a command word: the state itself if it
is, else with a new drive in the master slot, selected (log 3). -/
def State.withSelected (s : State) (c : Chan) (k : Kind) : State :=
  if (s.sel c).any fun p => p.2.kind == k then s
  else (s.setDrive c .master (attachedDrive s.cfg k none)).selectMaster c

/-- The selected drive of a channel with a freshly staged buffer, for the bytes of a packet (43_atapi.md R193; log 3). -/
def State.withBuffer (s : State) (c : Chan) (ws : List Word) : State :=
  match s.sel c with
  | none => s
  | some (sl, d) => s.setDrive c sl (d.stage ws)

/-- A guest access as the very next input, from a guest that is not stalled. -/
def State.withAccess (s : State) (a : Access) : State :=
  { s with inputs := .guest a :: s.inputs, guestStalled := false }

/-- The COMMAND_WR access that writes a command byte (30_encoding.md R72, R73). -/
def commandAccess (c : Chan) (op : Byte) : Access := ⟨.write, taskPort c 7, 1, op.setWidth 32⟩

/-- The bytes of an instruction placed as the next input (log 3): an access word is the next guest access; a command
byte is written to the command register of a selected drive of its backend; a packet is staged in the buffer of a
selected ATAPI drive and PACKET (0xA0) is written. Bytes that hold no instruction place nothing. -/
def State.withBytes (s : State) (f : Format) (bs : List Byte) : State :=
  match f with
  | .port =>
    match accessOfBytes bs with
    | .ok (a, _) => s.withAccess a
    | .error _ => s
  | .ataCmd k c =>
    match bs with
    | op :: _ => (s.withSelected c k).withAccess (commandAccess c op)
    | [] => s
  | .atapiPkt c =>
    match packetOfBytes bs with
    | .ok (p, _) => ((s.withSelected c .atapi).withBuffer c (words p.toList)).withAccess (commandAccess c 0xA0)
    | .error _ => s

/-- One input performed, the guest's accesses by `run` (44_host_operations.md R230, R240). -/
def perform (run : Instr → State → Result) (inp : Input) (s : State) : Result :=
  match inp with
  | .guest a => run (decodeAccess a) s
  | .attach c k img => hostAttach c k img s
  | .detachAll c k => hostDetachAll c k s
  | .resetChannel c => hostReset c s
  | .loadImage c sl source => hostLoadImage c sl source s
  | .loadDone l ans => loadDone l ans s

end Sys2Proof.Machine
end

