-- ==== Sys2Proof/Machine/Step.lean ====
section
/-! DEFINITION. One step: the next enabled input of the environment is performed, a guest access by decoding it and
running the instruction. -/

namespace Sys2Proof.Machine

/-- One step (10_state.md R20, 20_memory.md R60, R61, 44_host_operations.md R230). With no enabled input the block is
idle, or its guest hangs for ever, and nothing changes (70_reset_and_hazards.md R291, 60_exceptions.md R270). -/
def step (s : State) : Host.Outcome State Fault Refusal :=
  match nextInput s.guestStalled s.inputs with
  | none => .next s
  | some (inp, rest) => perform exec inp { s with inputs := rest }

/-- A word of spec/opcode_table.json placed as the next input, so that the next step runs its instruction (log 3). -/
def State.withFetchWord (s : State) (nbits w : Nat) : State :=
  s.withBytes (tableFormat nbits w) (tableBytes (w % 2 ^ max nbits 8))

end Sys2Proof.Machine
end

