-- ==== Sys2Proof/Safety.lean ====
section
/-! DEFINITION. What the statements are made of: the invariants of the reachable states (10_state.md R29 to R36,
41_buffer_protocol.md R147, 44_host_operations.md R239), when a run has ended (R243), and a few views of instructions. -/

namespace Sys2Proof

/-- The channel an instruction is about; a port outside the map belongs to none. -/
def Instr.channel? : Instr → Option Chan
  | .unmappedRd .. | .unmappedWr .. => none
  | .dataRd c _ | .errorRd c _ | .seccntRd c _ | .secnumRd c _ | .cylloRd c _ | .cylhiRd c _ | .drvhdRd c _
  | .statusRd c _ | .devctlRd c _ => some c
  | .dataWr c _ _ | .precompWr c _ _ | .seccntWr c _ _ | .secnumWr c _ _ | .cylloWr c _ _ | .cylhiWr c _ _
  | .drvhdWr c _ _ | .commandWr c _ _ | .devctlWr c _ _ => some c
  | .readSectors c | .writeSectors c | .identifyDevice c | .hdAbortOther c _ | .packet c | .identifyPacketDevice c
  | .atapiAbortOther c _ | .inquiry c | .read10 c _ _ | .read12 c _ _ | .pktAbortOther c _ => some c

/-- The access size of a port instruction; a command has none. -/
def Instr.accessSize? : Instr → Option Nat
  | .dataRd _ n | .errorRd _ n | .seccntRd _ n | .secnumRd _ n | .cylloRd _ n | .cylhiRd _ n | .drvhdRd _ n
  | .statusRd _ n | .devctlRd _ n | .unmappedRd _ n => some n
  | .dataWr _ n _ | .precompWr _ n _ | .seccntWr _ n _ | .secnumWr _ n _ | .cylloWr _ n _ | .cylhiWr _ n _
  | .drvhdWr _ n _ | .commandWr _ n _ | .devctlWr _ n _ | .unmappedWr _ n _ => some n
  | .readSectors _ | .writeSectors _ | .identifyDevice _ | .hdAbortOther _ _ | .packet _ | .identifyPacketDevice _
  | .atapiAbortOther _ _ | .inquiry _ | .read10 _ _ _ | .read12 _ _ _ | .pktAbortOther _ _ => none

/-- The 17-bit access word `A` (30_encoding.md R70): bit 16 the direction, bits 15:0 the port. -/
def Access.word (a : Access) : BitVec 17 :=
  match a.dir with
  | .read => 0#1 ++ a.port
  | .write => 1#1 ++ a.port

/-- The `match` value of a port instruction's row in spec/opcode_table.json, whose mask is 0x1FF7F; the UNMAPPED rows
and the rows of the other formats have none with that mask. -/
def Instr.tableMatch? : Instr → Option (BitVec 17)
  | .dataRd .. => some 0x00170
  | .dataWr .. => some 0x10170
  | .errorRd .. => some 0x00171
  | .precompWr .. => some 0x10171
  | .seccntRd .. => some 0x00172
  | .seccntWr .. => some 0x10172
  | .secnumRd .. => some 0x00173
  | .secnumWr .. => some 0x10173
  | .cylloRd .. => some 0x00174
  | .cylloWr .. => some 0x10174
  | .cylhiRd .. => some 0x00175
  | .cylhiWr .. => some 0x10175
  | .drvhdRd .. => some 0x00176
  | .drvhdWr .. => some 0x10176
  | .statusRd .. => some 0x00177
  | .commandWr .. => some 0x10177
  | .devctlRd .. => some 0x00376
  | .devctlWr .. => some 0x10376
  | .unmappedRd .. | .unmappedWr .. | .readSectors .. | .writeSectors .. | .identifyDevice .. | .hdAbortOther ..
  | .packet .. | .identifyPacketDevice .. | .atapiAbortOther .. | .inquiry .. | .read10 .. | .read12 ..
  | .pktAbortOther .. => none

/-- The `match` values of the 18 port rows with mask 0x1FF7F in spec/opcode_table.json. -/
def portRowMatches : List (BitVec 17) :=
  [0x00170, 0x10170, 0x00171, 0x10171, 0x00172, 0x10172, 0x00173, 0x10173, 0x00174, 0x10174, 0x00175, 0x10175,
   0x00176, 0x10176, 0x00177, 0x10177, 0x00376, 0x10376]

namespace Machine

/-- Whether an input is a guest port access. -/
def Input.isGuest : Input → Bool
  | .guest _ => true
  | .attach .. | .detachAll .. | .resetChannel .. | .loadImage .. | .loadDone .. => false

/-- A run has ended when every access and event of its list has been performed (44_host_operations.md R243); a stalled
guest's access never is. -/
def State.ended (s : State) : Prop := s.inputs = [] ∧ s.guestStalled = false

/-- The buffer lengths staging produces (41_buffer_protocol.md R147): none, an INQUIRY response, an HD sector or an
identify block, or `k` optical sectors. -/
def stagedLength (n : Nat) : Prop := n = 0 ∨ n = 18 ∨ n = 256 ∨ ∃ k, 1 ≤ k ∧ k ≤ 65535 ∧ n = k * 1024

/-- What holds of every drive in every reachable state. -/
structure Drive.Inv (b : ErrBits) (d : Drive) : Prop where
  /-- The cursor stays within the buffer (10_state.md R29). -/
  cursor : d.cur ≤ d.buf.length
  /-- DRQ means an unconsumed word (R30). -/
  drq : d.status.getLsbD 3 = true → d.cur < d.buf.length
  /-- ERR means an error code (R36). -/
  err : d.status.getLsbD 0 = true → d.error ≠ 0x00
  /-- IDX, CORR, DF and BSY are never set (R27, 60_exceptions.md R264). -/
  unused : d.status &&& 0xA6 = 0x00
  /-- The error register holds none or one of the four codes that are raised (R31, R261, R264). -/
  code : d.error = 0x00 ∨ d.error = errMask b .aborted ∨ d.error = errMask b .idNotFound ∨
    d.error = errMask b .uncorrectable ∨ d.error = errMask b .badBlock
  /-- The buffer has a staged length (R147). -/
  length : stagedLength d.buf.length
  /-- An attached store is canonical, and an HD store's length a multiple of 512 (20_memory.md R56, R242). -/
  store : ∀ m, d.media = .attached m → m.wf = true ∧ (d.kind = .hd → m.len % 512 = 0)

/-- Every drive meets its invariant, and so do the stores given back; the construction value is 0x00, as
00_scope.md R7 decides (D10). -/
structure State.DriveInv (s : State) : Prop where
  construct : s.cfg.constructValue = 0x00
  drives : ∀ c sl d, s.driveAt c sl = some d → d.Inv s.cfg.errBits
  released : ∀ m ∈ s.released, m.wf = true

/-- The pending loads agree with the drives (44_host_operations.md R235, R239). -/
structure State.LoadInv (s : State) : Prop where
  /-- A pending load's target drive exists (R233, R239). -/
  target : ∀ l ∈ s.loads, (s.driveAt l.chan l.slot).isSome = true
  /-- A drive that is Loading has a pending load (10_state.md R33). -/
  loading : ∀ c sl d, s.driveAt c sl = some d → d.media = .loading → ∃ l ∈ s.loads, l.chan = c ∧ l.slot = sl
  /-- Loader agents are distinct, and a new one is distinct from them. -/
  distinct : (s.loads.map Load.loader).Nodup
  fresh : ∀ l ∈ s.loads, l.loader < s.nextLoader

/-- `n` data reads of a channel, one after the other (30_encoding.md R85, `rdbuf`). -/
def drain (c : Chan) (size : Nat) : Nat → State → Host.Outcome State Fault Refusal
  | 0, s => .next s
  | n + 1, s =>
    match exec (.dataRd c size) s with
    | .next t => drain c size n t
    | .fault f => .fault f
    | .refused r => .refused r

/-- The outcome with one channel of its next state replaced. -/
def outcomeWithChan (o : Host.Outcome State Fault Refusal) (c : Chan) (ch : Channel) :
    Host.Outcome State Fault Refusal :=
  match o with
  | .next t => .next (t.setChan c ch)
  | .fault f => .fault f
  | .refused r => .refused r

end Machine

end Sys2Proof
end

