-- ==== Sys2Proof/Certificates/Slice0/Obligations.lean ====
section
/-! DEFINITION. The statements for the provers. Each is about every state (also those no run reaches) unless a
hypothesis says otherwise. "Derived" in a docstring means that the statement rests on a decision or an inference the
spec marks as its own (D<n>), or on a choice of this model (log <n>). -/

open Sys2Proof Sys2Proof.Machine

/-! ### Encoding -/

/-- Derived (30_encoding.md R70 to R80; the byte layout is the model's, log 4): decoding the encoding of any
well-formed instruction gives it back, with the bytes after it. -/
def Obligations.DecodeEncodeRoundTrip : Prop :=
  ∀ (i : Instr) (rest : List Byte), i.wellFormed = true → decode i.format (encode i ++ rest) = .ok (i, rest)

/-- Derived (30_encoding.md R71, R72; layout log 4): every guest access of an admitted size decodes to a well-formed
port instruction, whose encoding is that access again. -/
def Obligations.EveryAccessEncodesBack : Prop :=
  ∀ a : Access, admittedSize a.size = true → (a.dir = .read → a.value = 0) →
    (decodeAccess a).wellFormed = true ∧ (decodeAccess a).format = .port ∧
    accessOfBytes (encode (decodeAccess a)) = .ok (a, [])

/-- Derived (30_encoding.md R86, R71): the decoder agrees with the `port` rows of spec/opcode_table.json: an access
decodes to the row whose `match` its word has under the mask 0x1FF7F, to the UNMAPPED row of its direction if no row
matches, and its channel is bit 7 of the word. -/
def Obligations.PortDecodeFollowsOpcodeTable : Prop :=
  ∀ a : Access,
    (∀ m, (decodeAccess a).tableMatch? = some m → a.word &&& 0x1FF7F#17 = m) ∧
    ((decodeAccess a).tableMatch? = none →
      (∀ m ∈ portRowMatches, a.word &&& 0x1FF7F#17 ≠ m) ∧
      (a.dir = .read → decodeAccess a = .unmappedRd a.port a.size) ∧
      (a.dir = .write → decodeAccess a = .unmappedWr a.port a.size a.value)) ∧
    (∀ c, (decodeAccess a).channel? = some c → (c = .primary ↔ a.word.getLsbD 7 = true))

/-- Derived (30_encoding.md R70 to R77; the byte layout log 4, one-byte words log 5): words of the opcode table written
out decode to their rows. That a port word stands in three bytes, and that the zero bytes above it, its size and value bytes,
mean size 1 and value 0, is the model's choice (log 4); that a one-byte word reads its operand bytes as zeros is log 5. -/
def Obligations.WordsOfTheTableDecode : Prop :=
  decodeTableWord 24 0x001F0 = some (.dataRd .primary 1) ∧
  decodeTableWord 24 0x10170 = some (.dataWr .secondary 1 0) ∧
  decodeTableWord 24 0x101F7 = some (.commandWr .primary 1 0) ∧
  decodeTableWord 24 0x00376 = some (.devctlRd .secondary 1) ∧
  decodeTableWord 24 0x103F6 = some (.devctlWr .primary 1 0) ∧
  decodeTableWord 24 0x003F7 = some (.unmappedRd 0x3F7 1) ∧
  decodeTableWord 8 0x20 = some (.readSectors .primary) ∧
  decodeTableWord 8 0xA0 = some (.packet .primary) ∧
  decodeTableWord 8 0xA8 = some (.read12 .primary 0 0)

/-! ### Steps -/

/-- Derived (10_state.md R20, 40_controller_ports.md R100; the input list is the model's, log 2): when the bytes of
the next guest access decode to an instruction, the step of a guest that is not stalled is `exec` of it, on the state
from which that input has been taken. -/
def Obligations.StepRunsTheDecodedAccess : Prop :=
  ∀ (s : State) (bs rest : List Byte) (a : Access) (i : Instr), s.guestStalled = false →
    accessOfBytes bs = .ok (a, rest) → decode .port bs = .ok (i, rest) →
    step { s with inputs := .guest a :: s.inputs } = exec i s

/-- Derived (40_controller_ports.md R119, R120, R138, 30_encoding.md R73, R74; D29): with no drive a command write only logs;
with a drive it runs the command `value[7:0]`, decoded for the drive's backend, after the accounting event. -/
def Obligations.CommandWriteRunsTheDecodedCommand : Prop :=
  ∀ (s : State) (c : Chan) (n : Nat) (v : Dword), admittedSize n = true →
    exec (.commandWr c n v) s =
      match s.sel c with
      | none => .next (s.emit (.commandNoDrive c))
      | some (_, d) => exec (decodeCommand d.kind c (v.extractLsb' 0 8)) (s.emit (.account d.kind c 7 .write))

/-- Derived (43_atapi.md R193, R194; D22): PACKET on an ATAPI drive fills the packet area from the first 12 bytes of
the buffer, low byte of a word first and 0x00 past its end, and runs the packet that they encode. -/
def Obligations.PacketRunsTheDecodedPacket : Prop :=
  ∀ (s : State) (c : Chan) (sl : Slot) (d : Drive) (p : Vector Byte 12), s.sel c = some (sl, d) → d.kind = .atapi →
    (∀ i : Fin 12, p[i] = (d.buf.getD (i.val / 2) 0).extractLsb' (8 * (i.val % 2)) 8) →
    exec (.packet c) s = exec (decodePacket c p) (s.setDrive c sl { d with packet := p })

/-- Derived (60_exceptions.md R270, 44_host_operations.md R243; the input list is the model's, log 2, log 19): a stalled guest never steps
again: no later step reads for it, takes one of its accesses or ends the run, and a step with only its accesses left
changes nothing; while the first host or loader input is still performed. -/
def Obligations.StalledGuestHangs : Prop :=
  (∀ s t : State, s.guestStalled = true → step s = .next t →
    t.guestStalled = true ∧ t.reads = s.reads ∧ t.inputs.filter Input.isGuest = s.inputs.filter Input.isGuest ∧
    ¬ t.ended) ∧
  (∀ s : State, s.guestStalled = true → s.inputs.all Input.isGuest = true → step s = .next s) ∧
  (∀ (s : State) (gs rest : List Input) (inp : Input), s.guestStalled = true → gs.all Input.isGuest = true →
    inp.isGuest = false → s.inputs = gs ++ inp :: rest →
    step s = perform exec inp { s with inputs := gs ++ rest })

/-- Derived (10_state.md R38, 00_scope.md R7, R11; D1, D8, D10, D16: the spec's own choices; logs 7 to 10, 20): at
power-on all four slots are empty, `devCtl` is 0x00 and the master is selected on both channels, nothing is pending,
the configuration has the decided defaults, and a step with no input changes nothing. -/
def Obligations.ResetIsPowerOn : Prop :=
  (∀ c, (State.reset.chan c).master = none ∧ (State.reset.chan c).slave = none ∧
    (State.reset.chan c).devCtl = 0x00 ∧ (State.reset.chan c).primarySelected = true) ∧
  State.reset.loads = [] ∧ State.reset.guestStalled = false ∧
  State.reset.cfg.constructValue = 0x00 ∧ State.reset.cfg.earlyFinish = .atThreshold ∧
  errMask State.reset.cfg.errBits .aborted = 0x04 ∧ errMask State.reset.cfg.errBits .mediaChange = 0x08 ∧
  errMask State.reset.cfg.errBits .idNotFound = 0x10 ∧ errMask State.reset.cfg.errBits .mediaChanged = 0x20 ∧
  errMask State.reset.cfg.errBits .uncorrectable = 0x40 ∧ errMask State.reset.cfg.errBits .badBlock = 0x80 ∧
  step State.reset = .next State.reset

/-! ### Invariants and rules of the whole machine -/

/-- Derived (10_state.md R29, R30, R36, R38; D10 and log 8, log 15): the state at power-on meets both invariants. That
CONSTRUCT_VALUE is 0x00 there is the model's choice (log 8, D10), and the canonical form of the stores its own (log 15). -/
def Obligations.ResetMeetsInvariants : Prop :=
  State.reset.DriveInv ∧ State.reset.LoadInv

/-- Derived (10_state.md R27, R29, R30, R31, R36; 41_buffer_protocol.md R147; 60_exceptions.md R264; 20_memory.md R56;
D10, I1; logs 8, 13, 15): in a configuration whose CONSTRUCT_VALUE is 0x00, every step, of every agent, keeps for every
drive: cursor within the buffer, DRQ only with an unconsumed word, ERR only with an error code, IDX, CORR, DF and BSY
clear, an error register with none or one raised code, a buffer of a staged length, and an attached store that is
canonical, of a multiple of 512 bytes for HD; and the stores given back canonical. The premise 0x00 is the model's choice
(log 8, D10: the spec lets the value be any, I1); the canonical form of attached (log 15) and given-back stores (log 13)
is the model's own and no rule of the spec. -/
def Obligations.StepKeepsDriveInvariant : Prop :=
  ∀ s t : State, s.DriveInv → step s = .next t → t.DriveInv

/-- Derived (44_host_operations.md R233, R235, R239; 10_state.md R33; loader identities log 21): every step keeps: a
pending load has a target, a Loading drive has a pending load, loaders are distinct. -/
def Obligations.StepKeepsLoadInvariant : Prop :=
  ∀ s t : State, s.LoadInv → step s = .next t → t.LoadInv

/-- Derived (10_state.md R39; log 1): no step changes the configuration. -/
def Obligations.StepKeepsConfiguration : Prop :=
  ∀ s t : State, step s = .next t → t.cfg = s.cfg

/-- Derived (10_state.md R22, 70_reset_and_hazards.md R290): a step changes a channel's device-control byte only by a
guest write of its control port, and to the byte written. -/
def Obligations.OnlyDeviceControlWritesChangeDevCtl : Prop :=
  ∀ (s t : State) (c : Chan), step s = .next t → (t.chan c).devCtl ≠ (s.chan c).devCtl →
    ∃ a rest n v, nextInput s.guestStalled s.inputs = some (.guest a, rest) ∧ decodeAccess a = .devctlWr c n v ∧
      (t.chan c).devCtl = v.extractLsb' 0 8

/-- Derived (10_state.md R23, 70_reset_and_hazards.md R290; D7, D8): a step changes a channel's drive selection only by
a guest write of its Drive/Head port, to master exactly if bit 4 of the byte is 0. -/
def Obligations.OnlyDriveHeadWritesChangeSelection : Prop :=
  ∀ (s t : State) (c : Chan), step s = .next t → (t.chan c).primarySelected ≠ (s.chan c).primarySelected →
    ∃ a rest n v, nextInput s.guestStalled s.inputs = some (.guest a, rest) ∧ decodeAccess a = .drvhdWr c n v ∧
      (t.chan c).primarySelected = !v.getLsbD 4

/-- 40_controller_ports.md R128: an instruction on one channel neither reads nor writes the other channel: whatever
the other channel holds, the outcome is the same but for that channel, which keeps what it holds. -/
def Obligations.ChannelsDoNotInterfere : Prop :=
  ∀ (i : Instr) (s : State) (c c' : Chan) (ch : Channel), i.channel? = some c → c' ≠ c →
    exec i (s.setChan c' ch) = outcomeWithChan (exec i s) c' ch

/-- Derived (60_exceptions.md R260, R269, R270, 20_memory.md R56, R57): no step is refused. A guest access of an admitted
size answers a next state, a stalled guest being one, (a) in a state that meets the drive invariant, if the next store
answer is no I/O fault; with the answer Ok it completes, i.e. no stall begins; (b) in every state and whatever the
answer, if it is no command write, and it completes; (c) in every state and whatever the answer, if it is a command write
that reaches no hard disk. Where it stalls, that access never finishes (R270). -/
def Obligations.GuestAccessesComplete : Prop :=
  (∀ (s : State) (r : Refusal), step s ≠ .refused r) ∧
  (∀ (s : State) (a : Access), admittedSize a.size = true → s.nextAnswer ≠ .ioFault → s.DriveInv →
    ∃ t, exec (decodeAccess a) s = .next t) ∧
  (∀ (s : State) (a : Access), admittedSize a.size = true → s.nextAnswer = .ok → s.DriveInv →
    ∃ t, exec (decodeAccess a) s = .next t ∧ t.guestStalled = s.guestStalled) ∧
  (∀ (s : State) (a : Access), admittedSize a.size = true → (∀ c n v, decodeAccess a ≠ .commandWr c n v) →
    ∃ t, exec (decodeAccess a) s = .next t ∧ t.guestStalled = s.guestStalled) ∧
  (∀ (s : State) (a : Access) (c : Chan) (n : Nat) (v : Dword), admittedSize a.size = true →
    decodeAccess a = .commandWr c n v → (∀ sl d, s.sel c = some (sl, d) → d.kind = .atapi) →
    ∃ t, exec (decodeAccess a) s = .next t)

/-- Derived (40_controller_ports.md R101, 60_exceptions.md R269; D3): an instruction faults with BadAccessSize exactly
if it is a port access of a size other than 1, 2 and 4. -/
def Obligations.InadmissibleSizeFaults : Prop :=
  ∀ (i : Instr) (s : State),
    exec i s = .fault .badAccessSize ↔ ∃ n, i.accessSize? = some n ∧ n ≠ 1 ∧ n ≠ 2 ∧ n ≠ 4

/-- Derived (20_memory.md R50, R57, R58, 44_host_operations.md R241): no instruction but WRITE_SECTORS, and the command
write that runs it, changes any byte of any backing store, or any drive's media. -/
def Obligations.OnlyWriteSectorsChangesStores : Prop :=
  ∀ (i : Instr) (s t : State), exec i s = .next t → (∀ c, i ≠ .writeSectors c) →
    (∀ c n v, i = .commandWr c n v → v.extractLsb' 0 8 ≠ (0x30 : Byte)) →
    ∀ c sl, (t.driveAt c sl).map Drive.media = (s.driveAt c sl).map Drive.media

/-- Derived (40_controller_ports.md R138; D29): of the port instructions (the command and device-control writes have
their own statements) exactly the data accesses and status reads that reach a drive emit one accounting event; the
others emit nothing. -/
def Obligations.AccountingEvents : Prop :=
  ∀ (i : Instr) (s t : State) (n : Nat), exec i s = .next t → i.accessSize? = some n →
    (∀ c n v, i ≠ .commandWr c n v) → (∀ c n v, i ≠ .devctlWr c n v) →
    t.events =
      (match i with
        | .dataRd c _ => (s.sel c).toList.map fun p => Event.account p.2.kind c 0 .read
        | .dataWr c _ _ => (s.sel c).toList.map fun p => Event.account p.2.kind c 0 .write
        | .statusRd c _ => (s.sel c).toList.map fun p => Event.account p.2.kind c 7 .read
        | _ => []) ++ s.events

/-- Derived (40_controller_ports.md R106 to R118, R121, R125, R126; 20_memory.md R59): the frame of the register
accesses, i.e. of every port instruction but the data port, the command register and the device-control write: no
drive appears or goes, no drive's kind, error, status, buffer, cursor, packet or media changes; the device-control
bytes, and but for a Drive/Head write the selections, stay; loads, inputs, store answers, given-back stores and the
configuration stay, and the guest is not stalled by them. -/
def Obligations.RegisterAccessFrame : Prop :=
  ∀ (i : Instr) (s t : State) (n : Nat), exec i s = .next t → i.accessSize? = some n →
    (∀ c n, i ≠ .dataRd c n) → (∀ c n v, i ≠ .dataWr c n v) → (∀ c n v, i ≠ .commandWr c n v) →
    (∀ c n v, i ≠ .devctlWr c n v) →
    (∀ c sl, (t.driveAt c sl).map (fun d => (d.kind, d.error, d.status, d.buf, d.cur, d.packet, d.media)) =
      (s.driveAt c sl).map (fun d => (d.kind, d.error, d.status, d.buf, d.cur, d.packet, d.media))) ∧
    (∀ c, (t.chan c).devCtl = (s.chan c).devCtl) ∧
    ((∀ c n v, i ≠ .drvhdWr c n v) → ∀ c, (t.chan c).primarySelected = (s.chan c).primarySelected) ∧
    t.loads = s.loads ∧ t.nextLoader = s.nextLoader ∧ t.guestStalled = s.guestStalled ∧ t.inputs = s.inputs ∧
    t.answers = s.answers ∧ t.draws = s.draws ∧ t.released = s.released ∧ t.cfg = s.cfg

/-- Derived (60_exceptions.md R263, R262): after a failed command (status 0x01, no buffer) the status and the error
register keep their values through every port access but a command or device-control write. -/
def Obligations.ErrorsPersist : Prop :=
  ∀ (i : Instr) (s t : State) (c : Chan) (sl : Slot) (d : Drive) (n : Nat), exec i s = .next t →
    i.accessSize? = some n → (∀ c n v, i ≠ .commandWr c n v) → (∀ c n v, i ≠ .devctlWr c n v) →
    s.driveAt c sl = some d → d.status = 0x01 → d.buf = [] →
    ∃ d', t.driveAt c sl = some d' ∧ d'.status = 0x01 ∧ d'.error = d.error ∧ d'.buf = []

/-! ### Drive selection and the task file -/

/-- Derived (40_controller_ports.md R102; D6): which drive a channel's task-file ports reach. -/
def Obligations.DriveSelectionTable : Prop :=
  ∀ (s : State) (c : Chan), s.sel c =
    match (s.chan c).primarySelected, (s.chan c).master, (s.chan c).slave with
    | true, some d, _ => some (.master, d)
    | true, none, some d => some (.slave, d)
    | true, none, none => none
    | false, _, some d => some (.slave, d)
    | false, _, none => none

/-- 40_controller_ports.md R108, R110, R112, R114, R116: a read of sector count, sector number, cylinder low, cylinder
high or drive/head gives the selected drive's register zero-extended, 0 with no drive, and changes nothing else. -/
def Obligations.RegisterReadsReturnTheRegister : Prop :=
  ∀ (s : State) (c : Chan) (n : Nat), admittedSize n = true →
    let got : (Drive → Byte) → Dword := fun reg =>
      match s.sel c with
      | none => 0
      | some (_, d) => (reg d).setWidth 32
    exec (.seccntRd c n) s = .next { s with reads := got Drive.sectorCount :: s.reads } ∧
    exec (.secnumRd c n) s = .next { s with reads := got Drive.sectorNumber :: s.reads } ∧
    exec (.cylloRd c n) s = .next { s with reads := got Drive.cylLow :: s.reads } ∧
    exec (.cylhiRd c n) s = .next { s with reads := got Drive.cylHigh :: s.reads } ∧
    exec (.drvhdRd c n) s = .next { s with reads := got Drive.driveHead :: s.reads }

/-- Derived (40_controller_ports.md R106, R118, R103, R138; D2, D29, D38): a read of offset 1 gives the error register
and a read of offset 7 the status register, 0 with no drive; neither acknowledges or changes anything, but for the
accounting event of a status read that reaches a drive. -/
def Obligations.ErrorAndStatusReads : Prop :=
  ∀ (s : State) (c : Chan) (n : Nat), admittedSize n = true →
    (s.sel c = none →
      exec (.errorRd c n) s = .next { s with reads := 0 :: s.reads } ∧
      exec (.statusRd c n) s = .next { s with reads := 0 :: s.reads }) ∧
    (∀ sl d, s.sel c = some (sl, d) →
      exec (.errorRd c n) s = .next { s with reads := d.error.setWidth 32 :: s.reads } ∧
      exec (.statusRd c n) s =
        .next { s with reads := d.status.setWidth 32 :: s.reads, events := .account d.kind c 7 .read :: s.events })

/-- 40_controller_ports.md R109, R111, R113, R115: a write of sector count, sector number, cylinder low or cylinder
high stores `value[7:0]` in that register of the selected drive, and is dropped with no drive. -/
def Obligations.RegisterWritesReachTheSelectedDrive : Prop :=
  ∀ (s : State) (c : Chan) (n : Nat) (v : Dword), admittedSize n = true →
    let b : Byte := v.extractLsb' 0 8
    let put : (Drive → Drive) → State := fun f =>
      match s.sel c with
      | none => s
      | some (sl, d) => s.setDrive c sl (f d)
    exec (.seccntWr c n v) s = .next (put fun d => { d with sectorCount := b }) ∧
    exec (.secnumWr c n v) s = .next (put fun d => { d with sectorNumber := b }) ∧
    exec (.cylloWr c n v) s = .next (put fun d => { d with cylLow := b }) ∧
    exec (.cylhiWr c n v) s = .next (put fun d => { d with cylHigh := b })

/-- 40_controller_ports.md R107: a precompensation write changes nothing. -/
def Obligations.PrecompensationWriteIgnored : Prop :=
  ∀ (s : State) (c : Chan) (n : Nat) (v : Dword), admittedSize n = true → exec (.precompWr c n v) s = .next s

/-- Derived (40_controller_ports.md R125, R126; D5): a port outside the map reads 0 and ignores writes. -/
def Obligations.UnmappedPortsReadZeroIgnoreWrites : Prop :=
  ∀ (s : State) (p : BitVec 16) (n : Nat) (v : Dword), admittedSize n = true →
    exec (.unmappedRd p n) s = .next { s with reads := 0 :: s.reads } ∧ exec (.unmappedWr p n v) s = .next s

/-- Derived (40_controller_ports.md R117, 30_encoding.md R79; D6, D7): a Drive/Head write first selects by bit 4, drive
or no drive, and then gives the byte to the newly selected drive, if there is one. -/
def Obligations.DriveHeadWriteSelectsFirst : Prop :=
  ∀ (s : State) (c : Chan) (n : Nat) (v : Dword), admittedSize n = true →
    let s1 : State := s.setChan c { s.chan c with primarySelected := !v.getLsbD 4 }
    exec (.drvhdWr c n v) s =
      .next (match s1.sel c with
        | none => s1
        | some (sl, d) => s1.setDrive c sl { d with driveHead := v.extractLsb' 0 8 })

/-- Derived (40_controller_ports.md R127): with both slots of a channel populated, a Drive/Head write with bit 4 = 1
makes the slave, and one with bit 4 = 0 the master, the drive the next command reaches, and the command leaves the
other drive alone. -/
def Obligations.SelectionRoutesTheNextCommand : Prop :=
  ∀ (s : State) (c : Chan) (n n' : Nat) (v w : Dword) (d0 d1 : Drive), admittedSize n = true →
    admittedSize n' = true → (s.chan c).master = some d0 → (s.chan c).slave = some d1 →
    ∃ t, exec (.drvhdWr c n v) s = .next t ∧
      (v.getLsbD 4 = false →
        t.sel c = some (.master, { d0 with driveHead := v.extractLsb' 0 8 }) ∧
        ∀ u, exec (.commandWr c n' w) t = .next u → (u.chan c).slave = some d1) ∧
      (v.getLsbD 4 = true →
        t.sel c = some (.slave, { d1 with driveHead := v.extractLsb' 0 8 }) ∧
        ∀ u, exec (.commandWr c n' w) t = .next u → (u.chan c).master = some d0)

/-! ### The data port -/

/-- Derived (41_buffer_protocol.md R140, R141, R145, R146, 40_controller_ports.md R104, R138, 20_memory.md R52; D14, D16,
D17, D29): a data read with a word left emits its accounting event, returns that word, whatever the status, moves the
cursor, and finishes early, at the end, or not at all; an early finish rewrites the cylinder to the remaining byte count
mod 2^16. -/
def Obligations.DataReadMovesOneWord : Prop :=
  ∀ (s : State) (c : Chan) (n : Nat) (sl : Slot) (d : Drive), admittedSize n = true → s.sel c = some (sl, d) →
    d.cur < d.buf.length →
    let k := d.cur + 1
    let y : Nat := d.cylHigh.toNat * 256 + d.cylLow.toNat
    let early : Bool :=
      match s.cfg.earlyFinish with
      | .atThreshold => decide (2 * k = y)
      | .fromThreshold => decide (y ≠ 0 ∧ y ≤ 2 * k)
    let left : BitVec 16 := BitVec.ofNat 16 (2 * (d.buf.length - k))
    exec (.dataRd c n) s =
      .next { s.setDrive c sl
          { d with
            cur := k
            status := if early = true ∨ k = d.buf.length then 0x40 else d.status
            cylLow := if early = true then left.extractLsb' 0 8 else d.cylLow
            cylHigh := if early = true then left.extractLsb' 8 8 else d.cylHigh } with
        reads := (d.buf.getD d.cur 0).setWidth 32 :: s.reads
        events := .account d.kind c 0 .read :: s.events }

/-- Derived (41_buffer_protocol.md R142, R146, 40_controller_ports.md R105, R138; D15, D29): a data write with room emits
its accounting event, stores `value[15:0]` at the cursor, whatever the status, moves the cursor, and finishes when the
buffer is full; the cylinder never changes. -/
def Obligations.DataWriteMovesOneWord : Prop :=
  ∀ (s : State) (c : Chan) (n : Nat) (v : Dword) (sl : Slot) (d : Drive), admittedSize n = true →
    s.sel c = some (sl, d) → d.cur < d.buf.length →
    exec (.dataWr c n v) s =
      .next { s.setDrive c sl
          { d with
            buf := d.buf.set d.cur (v.extractLsb' 0 16)
            cur := d.cur + 1
            status := if d.cur + 1 = d.buf.length then 0x40 else d.status } with
        events := .account d.kind c 0 .write :: s.events }

/-- Derived (41_buffer_protocol.md R140, R142, 40_controller_ports.md R103 to R105, R138; D14, D15, D29): with no word left a data
read returns 0 and with no room a data write is dropped, each changing nothing but the accounting event; with no drive
they return 0 and are dropped with no event at all. -/
def Obligations.DataPortWithoutWordOrRoom : Prop :=
  ∀ (s : State) (c : Chan) (n : Nat) (v : Dword), admittedSize n = true →
    (∀ sl d, s.sel c = some (sl, d) → d.buf.length ≤ d.cur →
      exec (.dataRd c n) s =
        .next { s with reads := 0 :: s.reads, events := .account d.kind c 0 .read :: s.events } ∧
      exec (.dataWr c n v) s = .next { s with events := .account d.kind c 0 .write :: s.events }) ∧
    (s.sel c = none →
      exec (.dataRd c n) s = .next { s with reads := 0 :: s.reads } ∧ exec (.dataWr c n v) s = .next s)

/-- Derived (41_buffer_protocol.md R143, R144, R146): reading a freshly staged buffer of length L ≥ 1 L times returns
its words in order and leaves status 0x40, whatever the cylinder and the status; with cylinder 0 the status changes
only at the L-th read, and the cylinder stays 0. -/
def Obligations.DrainReturnsTheBuffer : Prop :=
  ∀ (s : State) (c : Chan) (n : Nat) (sl : Slot) (d : Drive), admittedSize n = true → s.sel c = some (sl, d) →
    d.cur = 0 → d.buf ≠ [] →
    (∃ t d', drain c n d.buf.length s = .next t ∧ t.reads = (d.buf.map (BitVec.setWidth 32)).reverse ++ s.reads ∧
      t.driveAt c sl = some d' ∧ d'.buf = d.buf ∧ d'.cur = d.buf.length ∧ d'.status = 0x40) ∧
    (d.cylLow = 0x00 → d.cylHigh = 0x00 →
      (∀ k, k < d.buf.length → ∃ t, drain c n k s = .next t ∧ t.driveAt c sl = some { d with cur := k }) ∧
      ∃ t, drain c n d.buf.length s = .next t ∧
        t.driveAt c sl = some { d with cur := d.buf.length, status := 0x40 })

/-! ### Device control and channel reset -/

/-- 40_controller_ports.md R121: a read of the control port gives the stored byte, with or without a drive. -/
def Obligations.DeviceControlReadReturnsTheStoredByte : Prop :=
  ∀ (s : State) (c : Chan) (n : Nat), admittedSize n = true →
    exec (.devctlRd c n) s = .next { s with reads := ((s.chan c).devCtl.setWidth 32) :: s.reads }

/-- 40_controller_ports.md R123: a 0→1 edge of SRST is exactly the host's reset(channel), on the state in which the
byte has been stored: it completes, and each present drive of the channel, no other, gets its backend's Reset. -/
def Obligations.SrstAssertIsChannelReset : Prop :=
  ∀ (s : State) (c : Chan) (n : Nat) (v : Dword), admittedSize n = true → (s.chan c).devCtl.getLsbD 2 = false →
    v.getLsbD 2 = true →
    let stored : State := s.setChan c { s.chan c with devCtl := v.extractLsb' 0 8 }
    exec (.devctlWr c n v) s = step { stored with inputs := .resetChannel c :: s.inputs } ∧
    ∃ t, exec (.devctlWr c n v) s = .next t ∧ (t.chan c).devCtl = v.extractLsb' 0 8 ∧
      ∀ c' sl, t.driveAt c' sl = if c' = c then (s.driveAt c' sl).map Drive.backendReset else s.driveAt c' sl

/-- 40_controller_ports.md R124: a 1→0 edge of SRST clears BSY and sets DRDY in the status of every drive of the
channel, keeps every other bit, and changes no other field. -/
def Obligations.SrstReleaseReadiesEveryDrive : Prop :=
  ∀ (s : State) (c : Chan) (n : Nat) (v : Dword), admittedSize n = true → (s.chan c).devCtl.getLsbD 2 = true →
    v.getLsbD 2 = false →
    let ready : Drive → Drive := fun d => { d with status := (d.status &&& 0x7F) ||| 0x40 }
    exec (.devctlWr c n v) s =
      .next (s.setChan c
        { master := (s.chan c).master.map ready
          slave := (s.chan c).slave.map ready
          devCtl := v.extractLsb' 0 8
          primarySelected := (s.chan c).primarySelected })

/-- Derived (40_controller_ports.md R122, 10_state.md R22; D27): a device-control write that leaves bit 2 as it was
stores the byte and does nothing else. -/
def Obligations.DeviceControlWriteWithoutEdge : Prop :=
  ∀ (s : State) (c : Chan) (n : Nat) (v : Dword), admittedSize n = true →
    (s.chan c).devCtl.getLsbD 2 = v.getLsbD 2 →
    exec (.devctlWr c n v) s = .next (s.setChan c { s.chan c with devCtl := v.extractLsb' 0 8 })

/-- Derived (44_host_operations.md R234, 42_hard_disk.md R160, 43_atapi.md R190, R204; D11): a channel reset logs on an
empty channel; else every present drive, also a lone slave, gets status 0x40 and cylinder 0 (HD) or status 0x50 and
cylinder 0xEB14 (ATAPI), no error and no buffer, and keeps everything else; selection, device control, loads and the
other channel stay. -/
def Obligations.ChannelResetResetsEveryDrive : Prop :=
  ∀ (s : State) (c : Chan),
    let resetDrive : Drive → Drive := fun d =>
      match d.kind with
      | .hd => { d with status := 0x40, error := 0x00, cylLow := 0x00, cylHigh := 0x00, buf := [], cur := 0 }
      | .atapi => { d with status := 0x50, error := 0x00, cylLow := 0x14, cylHigh := 0xEB, buf := [], cur := 0 }
    ((s.chan c).master = none → (s.chan c).slave = none →
      step { s with inputs := .resetChannel c :: s.inputs } =
        .next { s with events := .resetNoDrive c :: s.events }) ∧
    ((s.chan c).master ≠ none ∨ (s.chan c).slave ≠ none →
      step { s with inputs := .resetChannel c :: s.inputs } =
        .next (s.setChan c
          { master := (s.chan c).master.map resetDrive
            slave := (s.chan c).slave.map resetDrive
            devCtl := (s.chan c).devCtl
            primarySelected := (s.chan c).primarySelected }))

/-! ### Commands -/

/-- Derived (40_controller_ports.md R119, R138, 42_hard_disk.md R164, R165, 43_atapi.md R192, R200; D12, D21, D39): a
command write that reaches a drive with the backend's IDENTIFY byte (0xEC on HD, 0xA1 on ATAPI) stages its 256 words, and
one with a byte the backend does not implement aborts, in one step and with one accounting event. The bytes that reach
media or run a packet (0x20 and 0x30 on HD, 0xA0 on ATAPI) are in `SectorCommandWritesComplete` and
`PacketCommandWriteCompletes`. -/
def Obligations.CommandWriteCompletes : Prop :=
  ∀ (s : State) (c : Chan) (n : Nat) (v : Dword) (sl : Slot) (d : Drive), admittedSize n = true →
    s.sel c = some (sl, d) →
    let op : Byte := v.extractLsb' 0 8
    let after : Drive → State := fun d' => (s.emit (.account d.kind c 7 .write)).setDrive c sl d'
    let aborted : Drive := { d with status := 0x01, error := errMask s.cfg.errBits .aborted, buf := [], cur := 0 }
    (d.kind = .hd → op = 0xEC → exec (.commandWr c n v) s =
      .next (after { d with status := 0x48, error := 0x00, buf := s.cfg.hdIdentify.toList, cur := 0 })) ∧
    (d.kind = .hd → op ≠ 0x20 → op ≠ 0x30 → op ≠ 0xEC → exec (.commandWr c n v) s = .next (after aborted)) ∧
    (d.kind = .atapi → op = 0xA1 → exec (.commandWr c n v) s =
      .next (after { d with status := 0x48, error := 0x00, buf := s.cfg.cdIdentify.toList, cur := 0 })) ∧
    (d.kind = .atapi → op ≠ 0xA0 → op ≠ 0xA1 → exec (.commandWr c n v) s = .next (after aborted))

/-- Derived (42_hard_disk.md R162, R167 to R170, 20_memory.md R53, R56; D13, D18, D25): READ_SECTORS of a sector in
range, answered Ok, stages the 256 little-endian words of the sector at the byte offset `cyl·512`, and sets status
0x48, error 0x00; nothing else of the drive and no other drive changes. -/
def Obligations.ReadSectorsStagesTheSector : Prop :=
  ∀ (s : State) (c : Chan) (sl : Slot) (d : Drive) (m : Memory), s.sel c = some (sl, d) → d.kind = .hd →
    d.media = .attached m → m.len % 512 = 0 →
    let off := (d.cylHigh.toNat * 256 + d.cylLow.toNat) * 512
    off < m.len → s.nextAnswer = .ok →
    ∃ ws : List Word,
      exec (.readSectors c) s =
        .next (s.afterDraw.setDrive c sl { d with buf := ws, cur := 0, status := 0x48, error := 0x00 }) ∧
      ws.length = 256 ∧
      ∀ i, i < 256 → ws[i]? = some (m.byteAt (off + 2 * i + 1) ++ m.byteAt (off + 2 * i))

/-- Derived (42_hard_disk.md R163, R167, 20_memory.md R53, R56, R58; D13, D18, D20, D25): WRITE_SECTORS of a 256-word
buffer to a sector in range, answered Ok, writes exactly the 512 bytes from `cyl·512` on, the low byte of a word first,
keeps buffer and cursor, and sets status 0x40, error 0x00; every other byte of the store, every other register of the
drive and every other drive stays. -/
def Obligations.WriteSectorsStoresTheBuffer : Prop :=
  ∀ (s : State) (c : Chan) (sl : Slot) (d : Drive) (m : Memory), s.sel c = some (sl, d) → d.kind = .hd →
    d.media = .attached m → m.wf = true → m.len % 512 = 0 → d.buf.length = 256 → d.hdOffset < m.len →
    s.nextAnswer = .ok →
    ∃ m' : Memory,
      exec (.writeSectors c) s =
        .next (s.afterDraw.setDrive c sl { d with media := .attached m', status := 0x40, error := 0x00 }) ∧
      m'.len = m.len ∧
      (∀ a, a < d.hdOffset ∨ d.hdOffset + 512 ≤ a → m'.byteAt a = m.byteAt a) ∧
      (∀ i, i < 512 →
        m'.byteAt (d.hdOffset + i) = (d.buf.getD (i / 2) 0).extractLsb' (8 * (i % 2)) 8)

/-- Derived (42_hard_disk.md R163, R166, R168, 60_exceptions.md R262, R266; D12, D19, D20, D37): READ_SECTORS and
WRITE_SECTORS fail, before any store access, with Aborted when no store is attached, then with IDNotFound when
`cyl·512 ≥ len`, and WRITE_SECTORS then with Aborted when the buffer has not 256 words: status becomes 0x01, the buffer
is discarded, nothing else changes. -/
def Obligations.HdCommandErrorsInOrder : Prop :=
  ∀ (s : State) (c : Chan) (sl : Slot) (d : Drive), s.sel c = some (sl, d) → d.kind = .hd →
    let failed : ErrCode → State := fun e =>
      s.setDrive c sl { d with status := 0x01, error := errMask s.cfg.errBits e, buf := [], cur := 0 }
    let off := (d.cylHigh.toNat * 256 + d.cylLow.toNat) * 512
    (d.media = .unattached ∨ d.media = .loading →
      exec (.readSectors c) s = .next (failed .aborted) ∧ exec (.writeSectors c) s = .next (failed .aborted)) ∧
    (∀ m, d.media = .attached m → m.len ≤ off →
      exec (.readSectors c) s = .next (failed .idNotFound) ∧ exec (.writeSectors c) s = .next (failed .idNotFound)) ∧
    (∀ m, d.media = .attached m → off < m.len → d.buf.length ≠ 256 →
      exec (.writeSectors c) s = .next (failed .aborted))

/-- Derived (20_memory.md R56, 60_exceptions.md R269, R270; D25; log 14): when an HD command's store access is answered
with an I/O fault the run faults with HdStoreFault; when it stalls the guest is stalled and no drive and no store changes.
That a stalled command, a stalled WRITE_SECTORS included, leaves every drive and store as it was is the model's deduced
choice (log 14): R56 and R270 say only that the access never returns. -/
def Obligations.HdStoreFaultAndStall : Prop :=
  ∀ (s : State) (c : Chan) (sl : Slot) (d : Drive) (m : Memory), s.sel c = some (sl, d) → d.kind = .hd →
    d.media = .attached m → (d.cylHigh.toNat * 256 + d.cylLow.toNat) * 512 < m.len →
    (s.nextAnswer = .ioFault →
      exec (.readSectors c) s = .fault .hdStoreFault ∧
      (d.buf.length = 256 → exec (.writeSectors c) s = .fault .hdStoreFault)) ∧
    (s.nextAnswer = .stall →
      exec (.readSectors c) s = .next { s.afterDraw with guestStalled := true } ∧
      (d.buf.length = 256 → exec (.writeSectors c) s = .next { s.afterDraw with guestStalled := true }))

/-- Derived (42_hard_disk.md R164, 43_atapi.md R192; D21, D39): IDENTIFY_DEVICE and IDENTIFY_PACKET_DEVICE stage exactly
256 words, the backend's identify block, and set status 0x48, error 0x00, whatever the media; nothing else changes. -/
def Obligations.IdentifyStagesTheIdentifyBlock : Prop :=
  ∀ (s : State) (c : Chan) (sl : Slot) (d : Drive), s.sel c = some (sl, d) →
    let staged : List Word → State := fun ws =>
      s.setDrive c sl { d with buf := ws, cur := 0, status := 0x48, error := 0x00 }
    (d.kind = .hd → ∃ ws, exec (.identifyDevice c) s = .next (staged ws) ∧ ws.length = 256 ∧
      ∀ i : Fin 256, ws[i.val]? = some s.cfg.hdIdentify[i]) ∧
    (d.kind = .atapi → ∃ ws, exec (.identifyPacketDevice c) s = .next (staged ws) ∧ ws.length = 256 ∧
      ∀ i : Fin 256, ws[i.val]? = some s.cfg.cdIdentify[i])

/-- Derived (43_atapi.md R195, 20_memory.md R53; D13, D18, D21, D39): INQUIRY stages the 36 bytes of the INQUIRY response as
18 little-endian words and sets status 0x48, error 0x00, whatever the media; nothing else changes. -/
def Obligations.InquiryStagesTheResponse : Prop :=
  ∀ (s : State) (c : Chan) (sl : Slot) (d : Drive), s.sel c = some (sl, d) → d.kind = .atapi →
    ∃ ws : List Word,
      exec (.inquiry c) s =
        .next (s.setDrive c sl { d with buf := ws, cur := 0, status := 0x48, error := 0x00 }) ∧
      ws.length = 18 ∧
      ∀ i, i < 18 →
        ws[i]? = some (s.cfg.inquiryData.toList.getD (2 * i + 1) 0 ++ s.cfg.inquiryData.toList.getD (2 * i) 0)

/-- Derived (42_hard_disk.md R165, 43_atapi.md R199, R200, 60_exceptions.md R262; D12): the default rows abort: status
0x01, error Aborted, no buffer, nothing else changes. -/
def Obligations.UnimplementedEncodingsAbort : Prop :=
  ∀ (s : State) (c : Chan) (sl : Slot) (d : Drive) (op : Byte), s.sel c = some (sl, d) →
    let aborted : State :=
      s.setDrive c sl { d with status := 0x01, error := errMask s.cfg.errBits .aborted, buf := [], cur := 0 }
    (d.kind = .hd → exec (.hdAbortOther c op) s = .next aborted) ∧
    (d.kind = .atapi → exec (.atapiAbortOther c op) s = .next aborted ∧ exec (.pktAbortOther c op) s = .next aborted)

/-- Derived (43_atapi.md R193 to R195, R199; D12, D22): PACKET takes the first 12 bytes of the buffer as its packet, whose
first byte is the buffer's; it completes with the INQUIRY response staged when that byte is 0x12, and aborts when it is an
opcode the spec does not list, or the buffer is empty; the packet area keeps the 12 bytes taken. -/
def Obligations.PacketCompletes : Prop :=
  ∀ (s : State) (c : Chan) (sl : Slot) (d : Drive), s.sel c = some (sl, d) → d.kind = .atapi →
    let p : Vector Byte 12 := packetOfBuffer d.buf
    (p[0] = (d.buf.getD 0 0).extractLsb' 0 8) ∧
    (p[0] = 0x12 → exec (.packet c) s =
      .next (s.setDrive c sl
        { d with packet := p, buf := words s.cfg.inquiryData.toList, cur := 0, status := 0x48, error := 0x00 })) ∧
    (p[0] ≠ 0x12 → p[0] ≠ 0x28 → p[0] ≠ 0xA8 → exec (.packet c) s =
      .next (s.setDrive c sl
        { d with packet := p, buf := [], cur := 0, status := 0x01, error := errMask s.cfg.errBits .aborted }))

/-- Derived (43_atapi.md R196 to R198, R201, R202, 30_encoding.md R82, 20_memory.md R53, R57, 60_exceptions.md R262, R270;
D1, D12, D18, D21, D23 to D25; log 14): the outcomes of READ(10) and READ(12), with a length field of 0 meaning one sector: Aborted with no
image, BadBlock on an I/O fault, Uncorrectable when the request runs past the end, a stalled guest on a stall, and
else the `n·1024` little-endian words from byte `lba·2048` on with status 0x48, error 0x00. That a stalled read leaves
every drive as it was is the model's deduced choice (log 14). -/
def Obligations.AtapiReadOutcomes : Prop :=
  ∀ (s : State) (c : Chan) (sl : Slot) (d : Drive) (lba : Dword) (len : BitVec 16) (i : Instr),
    i = .read10 c lba len ∨ i = .read12 c lba len → s.sel c = some (sl, d) → d.kind = .atapi →
    let n := if len = 0 then 1 else len.toNat
    let off := lba.toNat * 2048
    let failed : State → ErrCode → State := fun t e =>
      t.setDrive c sl { d with status := 0x01, error := errMask s.cfg.errBits e, buf := [], cur := 0 }
    (d.media = .unattached ∨ d.media = .loading → exec i s = .next (failed s .aborted)) ∧
    (∀ m, d.media = .attached m →
      (s.nextAnswer = .ioFault → exec i s = .next (failed s.afterDraw .badBlock)) ∧
      (s.nextAnswer = .stall → exec i s = .next { s.afterDraw with guestStalled := true }) ∧
      (s.nextAnswer = .ok → m.len < off + n * 2048 → exec i s = .next (failed s.afterDraw .uncorrectable)) ∧
      (s.nextAnswer = .ok → off + n * 2048 ≤ m.len → ∃ ws : List Word,
        exec i s = .next (s.afterDraw.setDrive c sl { d with buf := ws, cur := 0, status := 0x48, error := 0x00 }) ∧
        ws.length = n * 1024 ∧
        ∀ j, j < n * 1024 → ws[j]? = some (m.byteAt (off + 2 * j + 1) ++ m.byteAt (off + 2 * j))))

/-- Derived (42_hard_disk.md R171): what WRITE_SECTORS writes, a READ_SECTORS right after it, at the same cylinder, stages
again, word for word. It covers only the READ_SECTORS that is the next instruction; R171 also allows steps in between. -/
def Obligations.HdWriteReadRoundTrip : Prop :=
  ∀ (s : State) (c : Chan) (sl : Slot) (d : Drive) (m : Memory) (rest : List StoreAnswer), s.sel c = some (sl, d) →
    d.kind = .hd → d.media = .attached m → m.wf = true → m.len % 512 = 0 → d.hdOffset < m.len → d.buf.length = 256 →
    s.answers = .ok :: .ok :: rest →
    ∃ t u d', exec (.writeSectors c) s = .next t ∧ exec (.readSectors c) t = .next u ∧
      u.driveAt c sl = some d' ∧ d'.buf = d.buf ∧ d'.cur = 0 ∧ d'.status = 0x48 ∧ d'.error = 0x00

/-! ### Host operations and loads -/

/-- Derived (44_host_operations.md R231, R232, R242, 10_state.md R37, 70_reset_and_hazards.md R295; D8 to D10, D19; the
order of the checks log 16): an attach of an admitted medium fills the lowest empty slot with a new drive, whose registers
are as the table of R295 says; on a full channel any attach logs and does nothing else, one of an HD store of a bad length
too, which is the model's choice (log 16). -/
def Obligations.AttachFillsTheLowestEmptySlot : Prop :=
  ∀ (s : State) (c : Chan) (k : Kind) (img : Option Image),
    ((s.chan c).master = none ∨ (s.chan c).slave = none → ∀ x, img = some x → k = .hd → x.len % 512 = 0) →
    let cv := s.cfg.constructValue
    let atapi : Byte → Byte := fun b =>
      match k with
      | .hd => cv
      | .atapi => b
    let fresh : Drive :=
      { kind := k, error := atapi 0x00, sectorCount := cv, sectorNumber := cv, cylLow := atapi 0x14
        cylHigh := atapi 0xEB, driveHead := cv, status := atapi 0x50, buf := [], cur := 0
        packet := Vector.replicate 12 0x00
        media := match img with
          | none => .unattached
          | some x => .attached (Memory.ofImage x) }
    step { s with inputs := .attach c k img :: s.inputs } =
      .next (match (s.chan c).master, (s.chan c).slave with
        | none, _ => s.setDrive c .master fresh
        | some _, none => s.setDrive c .slave fresh
        | some _, some _ => { s with events := .attachChannelFull c :: s.events })

/-- Derived (44_host_operations.md R242, R237, 60_exceptions.md R269; D19): an HD store whose length is no multiple of
512 faults with HdStoreLength, given to an attach that has an empty slot or by a load completion of an HD drive. -/
def Obligations.BadHdStoreLengthFaults : Prop :=
  ∀ (s : State) (c : Chan) (img : Image), img.len % 512 ≠ 0 →
    ((s.chan c).master = none ∨ (s.chan c).slave = none →
      step { s with inputs := .attach c .hd (some img) :: s.inputs } = .fault .hdStoreLength) ∧
    (∀ l d, s.loads.find? (fun x => x.loader == l.loader) = some l → s.driveAt l.chan l.slot = some d →
      d.kind = .hd →
      step { s with inputs := .loadDone l.loader (.ok img) :: s.inputs } = .fault .hdStoreLength)

/-- Derived (44_host_operations.md R233, R239; D9, D36): detach_all empties the slots of that channel that hold a drive of
that kind, moves no other drive, drops exactly the pending loads of the drives it removes, and leaves selection, device
control, event history and the other channel alone. -/
def Obligations.DetachRemovesDrivesAndTheirLoads : Prop :=
  ∀ (s : State) (c : Chan) (k : Kind),
    let gone : Chan → Slot → Bool := fun c' sl => c' == c && (s.driveAt c' sl).any fun d => d.kind == k
    ∃ t, step { s with inputs := .detachAll c k :: s.inputs } = .next t ∧
      (∀ c' sl, t.driveAt c' sl = if gone c' sl = true then none else s.driveAt c' sl) ∧
      t.loads = s.loads.filter (fun l => !gone l.chan l.slot) ∧
      (∀ c', (t.chan c').devCtl = (s.chan c').devCtl ∧ (t.chan c').primarySelected = (s.chan c').primarySelected) ∧
      t.events = s.events ∧ t.inputs = s.inputs ∧ t.reads = s.reads ∧ t.guestStalled = s.guestStalled

/-- Derived (44_host_operations.md R235; D26; loader identities log 21): a load start makes the drive's media Loading,
changes no register, and adds one pending load; on an empty slot it logs. -/
def Obligations.LoadStartMakesMediaLoading : Prop :=
  ∀ (s : State) (c : Chan) (sl : Slot) (src : Nat),
    (s.driveAt c sl = none →
      step { s with inputs := .loadImage c sl src :: s.inputs } =
        .next { s with events := .loadNoDrive c sl :: s.events }) ∧
    (∀ d, s.driveAt c sl = some d → ∃ t,
      step { s with inputs := .loadImage c sl src :: s.inputs } = .next t ∧
      (∀ c' sl', t.driveAt c' sl' =
        if c' = c ∧ sl' = sl then some { d with media := .loading } else s.driveAt c' sl') ∧
      t.loads = s.loads ++ [⟨s.nextLoader, c, sl, src⟩] ∧ t.events = s.events ∧
      (∀ m, d.media = .attached m → t.released = m :: s.released))

/-- Derived (44_host_operations.md R236, R239, 43_atapi.md R203; D26, D41; log 15, log 21): a successful completion of an
ATAPI load attaches the image and stages CD_IDENTIFY with status 0x48, error 0x00, cursor 0, whatever buffer was active;
that load is no longer pending, every other pending load stays, and no other drive changes. The identity of a load is the
model's (log 21), and so is the form of the attached image's bytes (log 15). -/
def Obligations.AtapiLoadCompletionStagesIdentify : Prop :=
  ∀ (s : State) (l : Load) (d : Drive) (img : Image), s.loads.find? (fun x => x.loader == l.loader) = some l →
    s.driveAt l.chan l.slot = some d → d.kind = .atapi →
    ∃ t, step { s with inputs := .loadDone l.loader (.ok img) :: s.inputs } = .next t ∧
      (∀ c' sl', t.driveAt c' sl' =
        if c' = l.chan ∧ sl' = l.slot then
          some { d with media := .attached (Memory.ofImage img), buf := s.cfg.cdIdentify.toList, cur := 0,
                        status := 0x48, error := 0x00 }
        else s.driveAt c' sl') ∧
      t.loads = s.loads.filter (fun x => x.loader != l.loader) ∧ t.events = s.events

/-- Derived (44_host_operations.md R237, R238, R239; D26, D36, D41; log 15, log 21): a successful completion of an HD load
attaches the store and changes no register and no buffer; a failed completion leaves the media Unattached, changes no
register, and logs; either takes away that pending load and no other. That a completion whose load is not pending does
nothing is the model's choice (log 21): the spec says that such a completion does not happen. -/
def Obligations.OtherLoadCompletions : Prop :=
  ∀ (s : State) (l : Load) (d : Drive) (img : Image),
    (s.loads.find? (fun x => x.loader == l.loader) = some l → s.driveAt l.chan l.slot = some d →
      (d.kind = .hd → img.len % 512 = 0 → ∃ t,
        step { s with inputs := .loadDone l.loader (.ok img) :: s.inputs } = .next t ∧
        (∀ c' sl', t.driveAt c' sl' =
          if c' = l.chan ∧ sl' = l.slot then some { d with media := .attached (Memory.ofImage img) }
          else s.driveAt c' sl') ∧
        t.loads = s.loads.filter (fun x => x.loader != l.loader) ∧ t.events = s.events) ∧
      (∃ t, step { s with inputs := .loadDone l.loader .failed :: s.inputs } = .next t ∧
        (∀ c' sl', t.driveAt c' sl' =
          if c' = l.chan ∧ sl' = l.slot then some { d with media := .unattached } else s.driveAt c' sl') ∧
        t.loads = s.loads.filter (fun x => x.loader != l.loader) ∧
        t.events = .loadFailed l.chan l.slot :: s.events)) ∧
    ((∀ x ∈ s.loads, x.loader ≠ l.loader) → ∀ ans,
      step { s with inputs := .loadDone l.loader ans :: s.inputs } = .next s)

/-! ### Command writes that reach media or run a packet -/

/-- Derived (40_controller_ports.md R119, R138, 42_hard_disk.md R162, R163, R166 to R168, 20_memory.md R53, R56, R58,
60_exceptions.md R262; D12, D13, D18 to D20, D25, D29, D37): a command write of 0x20 (READ_SECTORS) or 0x30
(WRITE_SECTORS) that reaches a hard disk emits one accounting event and completes. With an attached store of a multiple of
512 bytes, `cyl·512` in range and the store answering Ok, 0x20 stages the sector, and 0x30, the buffer having 256 words,
stores it; with no store both abort; out of range both fail with IDNotFound; and with another buffer length 0x30 aborts. -/
def Obligations.SectorCommandWritesComplete : Prop :=
  ∀ (s : State) (c : Chan) (n : Nat) (v : Dword) (sl : Slot) (d : Drive), admittedSize n = true →
    s.sel c = some (sl, d) → d.kind = .hd →
    let op : Byte := v.extractLsb' 0 8
    let counted : State := s.emit (.account .hd c 7 .write)
    let failed : ErrCode → State := fun e =>
      counted.setDrive c sl { d with status := 0x01, error := errMask s.cfg.errBits e, buf := [], cur := 0 }
    let off := (d.cylHigh.toNat * 256 + d.cylLow.toNat) * 512
    (op = 0x20 ∨ op = 0x30 → d.media = .unattached ∨ d.media = .loading →
      exec (.commandWr c n v) s = .next (failed .aborted)) ∧
    (∀ m, d.media = .attached m →
      (op = 0x20 ∨ op = 0x30 → m.len ≤ off → exec (.commandWr c n v) s = .next (failed .idNotFound)) ∧
      (op = 0x30 → off < m.len → d.buf.length ≠ 256 → exec (.commandWr c n v) s = .next (failed .aborted)) ∧
      (op = 0x20 → off < m.len → m.len % 512 = 0 → s.nextAnswer = .ok → ∃ ws : List Word,
        exec (.commandWr c n v) s =
          .next (counted.afterDraw.setDrive c sl { d with buf := ws, cur := 0, status := 0x48, error := 0x00 }) ∧
        ws.length = 256 ∧
        ∀ i, i < 256 → ws[i]? = some (m.byteAt (off + 2 * i + 1) ++ m.byteAt (off + 2 * i))) ∧
      (op = 0x30 → off < m.len → m.len % 512 = 0 → m.wf = true → d.buf.length = 256 → s.nextAnswer = .ok →
        ∃ m' : Memory,
        exec (.commandWr c n v) s =
          .next (counted.afterDraw.setDrive c sl
            { d with media := .attached m', status := 0x40, error := 0x00 }) ∧
        m'.len = m.len ∧
        (∀ a, a < off ∨ off + 512 ≤ a → m'.byteAt a = m.byteAt a) ∧
        (∀ i, i < 512 → m'.byteAt (off + i) = (d.buf.getD (i / 2) 0).extractLsb' (8 * (i % 2)) 8)))

/-- Derived (40_controller_ports.md R119, R138, 43_atapi.md R193 to R199, R201, R202, 30_encoding.md R82; 20_memory.md R53,
R57, 60_exceptions.md R262; D12, D13, D18, D21 to D25, D29): a command write of 0xA0 (PACKET) that reaches an optical drive
emits one accounting event, takes the packet from the first 12 bytes of the buffer, and, unless its stream access stalls,
completes: INQUIRY stages the response; READ(10) and READ(12) abort with no image, and else stage the requested sectors,
or fail with Uncorrectable past the end and with BadBlock on an I/O fault; every other packet opcode aborts. -/
def Obligations.PacketCommandWriteCompletes : Prop :=
  ∀ (s : State) (c : Chan) (n : Nat) (v : Dword) (sl : Slot) (d : Drive), admittedSize n = true →
    s.sel c = some (sl, d) → d.kind = .atapi → v.extractLsb' 0 8 = (0xA0 : Byte) →
    let p : Vector Byte 12 := packetOfBuffer d.buf
    let counted : State := s.emit (.account .atapi c 7 .write)
    let failed : State → ErrCode → State := fun t e =>
      t.setDrive c sl { d with packet := p, status := 0x01, error := errMask s.cfg.errBits e, buf := [], cur := 0 }
    let staged : State → List Word → State := fun t ws =>
      t.setDrive c sl { d with packet := p, buf := ws, cur := 0, status := 0x48, error := 0x00 }
    let n0 : Nat := if p[0] = 0x28 then p[7].toNat * 256 + p[8].toNat else p[6].toNat * 256 + p[7].toNat
    let count : Nat := if n0 = 0 then 1 else n0
    let off : Nat := (p[2].toNat * 2 ^ 24 + p[3].toNat * 2 ^ 16 + p[4].toNat * 2 ^ 8 + p[5].toNat) * 2048
    (p[0] = 0x12 → exec (.commandWr c n v) s = .next (staged counted (words s.cfg.inquiryData.toList))) ∧
    (p[0] ≠ 0x12 → p[0] ≠ 0x28 → p[0] ≠ 0xA8 → exec (.commandWr c n v) s = .next (failed counted .aborted)) ∧
    (p[0] = 0x28 ∨ p[0] = 0xA8 →
      (d.media = .unattached ∨ d.media = .loading → exec (.commandWr c n v) s = .next (failed counted .aborted)) ∧
      (∀ m, d.media = .attached m →
        (s.nextAnswer = .ioFault → exec (.commandWr c n v) s = .next (failed counted.afterDraw .badBlock)) ∧
        (s.nextAnswer = .ok → m.len < off + count * 2048 →
          exec (.commandWr c n v) s = .next (failed counted.afterDraw .uncorrectable)) ∧
        (s.nextAnswer = .ok → off + count * 2048 ≤ m.len → ∃ ws : List Word,
          exec (.commandWr c n v) s = .next (staged counted.afterDraw ws) ∧
          ws.length = count * 1024 ∧
          ∀ j, j < count * 1024 → ws[j]? = some (m.byteAt (off + 2 * j + 1) ++ m.byteAt (off + 2 * j)))))
end

