-- ==== Sys2Proof/Laws/Bytes.lean ====
section
/-! SUPPORT. Byte order: packing and unpacking are inverse (20_memory.md R53), the cylinder splits and joins
(10_state.md R26). -/

namespace Sys2Proof.Machine

@[simp] theorem joinBytes_low_high (w : Word) : joinBytes (lowByte w) (highByte w) = w := by
  apply BitVec.eq_of_getLsbD_eq
  intro i hi
  simp only [joinBytes, lowByte, highByte, BitVec.getLsbD_append, BitVec.getLsbD_extractLsb']
  by_cases h : i < 8
  · simp [h]
  · have h8 : i - 8 < 8 := by omega
    simp [h, h8, show 8 + (i - 8) = i by omega]

@[simp] theorem lowByte_joinBytes (lo hi : Byte) : lowByte (joinBytes lo hi) = lo := by
  apply BitVec.eq_of_getLsbD_eq
  intro i h
  have : (hi ++ lo).getLsbD i = lo.getLsbD i := by rw [BitVec.getLsbD_append, if_pos h]
  simpa [joinBytes, lowByte, h] using this

@[simp] theorem highByte_joinBytes (lo hi : Byte) : highByte (joinBytes lo hi) = hi := by
  apply BitVec.eq_of_getLsbD_eq
  intro i h
  have : (hi ++ lo).getLsbD (8 + i) = hi.getLsbD i := by
    rw [BitVec.getLsbD_append, if_neg (by omega), Nat.add_sub_cancel_left]
  simpa [joinBytes, highByte, h] using this

@[simp] theorem length_bytesOf (ws : List Word) : (bytesOf ws).length = 2 * ws.length := by
  induction ws with
  | nil => rfl
  | cons w ws ih => simp only [bytesOf, List.length_cons, ih]; omega

/-- Packing gives one word for every two bytes, the last one alone if the count is odd (20_memory.md R53). -/
theorem length_words (bs : List Byte) : (words bs).length = (bs.length + 1) / 2 := by
  induction bs using words.induct with
  | case1 => rfl
  | case2 lo => simp [words]
  | case3 lo hi rest ih => simp only [words, List.length_cons, ih]; omega

/-- Packing the bytes of words gives the words back (20_memory.md R53). -/
@[simp] theorem words_bytesOf (ws : List Word) : words (bytesOf ws) = ws := by
  induction ws with
  | nil => rfl
  | cons w ws ih => simp [bytesOf, words, ih]

/-- The cylinder after `setCyl` (10_state.md R26). -/
@[simp] theorem Drive.cyl_setCyl (d : Drive) (v : Nat) : (d.setCyl v).cyl = BitVec.ofNat 16 v :=
  joinBytes_low_high _

theorem Drive.cyl_eq_of_bytes (d d' : Drive) (hl : d'.cylLow = d.cylLow) (hh : d'.cylHigh = d.cylHigh) :
    d'.cyl = d.cyl := by
  simp [Drive.cyl, hl, hh]

end Sys2Proof.Machine
end

