-- ==== Sys2Proof/Laws/State.lean ====
section
/-! SUPPORT. One lemma per field and update of the state, of a channel and of a drive, so that no proof unfolds a
record update. -/

namespace Sys2Proof.Machine

/-! ### Channels of the state -/

@[simp] theorem State.chan_setChan_same (s : State) (c : Chan) (ch : Channel) : (s.setChan c ch).chan c = ch := by
  cases c <;> rfl

theorem State.chan_setChan (s : State) (c c' : Chan) (ch : Channel) :
    (s.setChan c ch).chan c' = if c' = c then ch else s.chan c' := by
  cases c <;> cases c' <;> rfl

theorem State.chan_setChan_other (s : State) {c c' : Chan} (h : c' ≠ c) (ch : Channel) :
    (s.setChan c ch).chan c' = s.chan c' := by
  simp [State.chan_setChan, h]

@[simp] theorem State.setChan_chan (s : State) (c : Chan) : s.setChan c (s.chan c) = s := by
  cases c <;> rfl

@[simp] theorem State.setChan_setChan (s : State) (c : Chan) (x y : Channel) :
    (s.setChan c x).setChan c y = s.setChan c y := by
  cases c <;> rfl

theorem State.setChan_comm (s : State) {c c' : Chan} (h : c' ≠ c) (x y : Channel) :
    (s.setChan c x).setChan c' y = (s.setChan c' y).setChan c x := by
  cases c <;> cases c' <;> first | rfl | exact absurd rfl h

@[simp] theorem State.loads_setChan (s : State) (c : Chan) (ch : Channel) : (s.setChan c ch).loads = s.loads := by
  cases c <;> rfl

@[simp] theorem State.nextLoader_setChan (s : State) (c : Chan) (ch : Channel) : (s.setChan c ch).nextLoader = s.nextLoader := by
  cases c <;> rfl

@[simp] theorem State.guestStalled_setChan (s : State) (c : Chan) (ch : Channel) : (s.setChan c ch).guestStalled = s.guestStalled := by
  cases c <;> rfl

@[simp] theorem State.inputs_setChan (s : State) (c : Chan) (ch : Channel) : (s.setChan c ch).inputs = s.inputs := by
  cases c <;> rfl

@[simp] theorem State.answers_setChan (s : State) (c : Chan) (ch : Channel) : (s.setChan c ch).answers = s.answers := by
  cases c <;> rfl

@[simp] theorem State.draws_setChan (s : State) (c : Chan) (ch : Channel) : (s.setChan c ch).draws = s.draws := by
  cases c <;> rfl

@[simp] theorem State.reads_setChan (s : State) (c : Chan) (ch : Channel) : (s.setChan c ch).reads = s.reads := by
  cases c <;> rfl

@[simp] theorem State.events_setChan (s : State) (c : Chan) (ch : Channel) : (s.setChan c ch).events = s.events := by
  cases c <;> rfl

@[simp] theorem State.released_setChan (s : State) (c : Chan) (ch : Channel) : (s.setChan c ch).released = s.released := by
  cases c <;> rfl

@[simp] theorem State.cfg_setChan (s : State) (c : Chan) (ch : Channel) : (s.setChan c ch).cfg = s.cfg := by
  cases c <;> rfl

/-! ### Slots of a channel -/

@[simp] theorem Channel.slot_setSlot_same (ch : Channel) (sl : Slot) (d : Option Drive) :
    (ch.setSlot sl d).slot sl = d := by
  cases sl <;> rfl

theorem Channel.slot_setSlot (ch : Channel) (sl sl' : Slot) (d : Option Drive) :
    (ch.setSlot sl d).slot sl' = if sl' = sl then d else ch.slot sl' := by
  cases sl <;> cases sl' <;> rfl

@[simp] theorem Channel.devCtl_setSlot (ch : Channel) (sl : Slot) (d : Option Drive) :
    (ch.setSlot sl d).devCtl = ch.devCtl := by
  cases sl <;> rfl

@[simp] theorem Channel.primarySelected_setSlot (ch : Channel) (sl : Slot) (d : Option Drive) :
    (ch.setSlot sl d).primarySelected = ch.primarySelected := by
  cases sl <;> rfl

@[simp] theorem Channel.slot_mapDrives (ch : Channel) (f : Drive → Drive) (sl : Slot) :
    (ch.mapDrives f).slot sl = (ch.slot sl).map f := by
  cases sl <;> rfl

@[simp] theorem Channel.devCtl_mapDrives (ch : Channel) (f : Drive → Drive) : (ch.mapDrives f).devCtl = ch.devCtl := rfl

@[simp] theorem Channel.primarySelected_mapDrives (ch : Channel) (f : Drive → Drive) :
    (ch.mapDrives f).primarySelected = ch.primarySelected := rfl

/-- Two channels with the same slots, device-control byte and selection are the same. -/
theorem Channel.ext_slots {x y : Channel} (hs : ∀ sl, x.slot sl = y.slot sl) (hd : x.devCtl = y.devCtl)
    (hp : x.primarySelected = y.primarySelected) : x = y := by
  cases x; cases y
  have h0 := hs .master
  have h1 := hs .slave
  simp only [Channel.slot] at h0 h1
  simp_all

/-! ### Drives in their slots -/

theorem State.driveAt_setSlot (s : State) (c c' : Chan) (sl sl' : Slot) (d : Option Drive) :
    (s.setSlot c sl d).driveAt c' sl' = if c' = c ∧ sl' = sl then d else s.driveAt c' sl' := by
  cases c <;> cases c' <;> cases sl <;> cases sl' <;> rfl

theorem State.driveAt_setDrive (s : State) (c c' : Chan) (sl sl' : Slot) (d : Drive) :
    (s.setDrive c sl d).driveAt c' sl' = if c' = c ∧ sl' = sl then some d else s.driveAt c' sl' :=
  State.driveAt_setSlot s c c' sl sl' (some d)

@[simp] theorem State.driveAt_setDrive_same (s : State) (c : Chan) (sl : Slot) (d : Drive) :
    (s.setDrive c sl d).driveAt c sl = some d := by
  simp [State.driveAt_setDrive]

@[simp] theorem State.chan_setDrive_other (s : State) {c c' : Chan} (h : c' ≠ c) (sl : Slot) (d : Drive) :
    (s.setDrive c sl d).chan c' = s.chan c' :=
  State.chan_setChan_other s h _

@[simp] theorem State.devCtl_setSlot (s : State) (c c' : Chan) (sl : Slot) (d : Option Drive) :
    ((s.setSlot c sl d).chan c').devCtl = (s.chan c').devCtl := by
  cases c <;> cases c' <;> cases sl <;> rfl

@[simp] theorem State.primarySelected_setSlot (s : State) (c c' : Chan) (sl : Slot) (d : Option Drive) :
    ((s.setSlot c sl d).chan c').primarySelected = (s.chan c').primarySelected := by
  cases c <;> cases c' <;> cases sl <;> rfl

@[simp] theorem State.devCtl_setDrive (s : State) (c c' : Chan) (sl : Slot) (d : Drive) :
    ((s.setDrive c sl d).chan c').devCtl = (s.chan c').devCtl :=
  State.devCtl_setSlot s c c' sl (some d)

@[simp] theorem State.primarySelected_setDrive (s : State) (c c' : Chan) (sl : Slot) (d : Drive) :
    ((s.setDrive c sl d).chan c').primarySelected = (s.chan c').primarySelected :=
  State.primarySelected_setSlot s c c' sl (some d)

@[simp] theorem State.loads_setSlot (s : State) (c : Chan) (sl : Slot) (d : Option Drive) :
    (s.setSlot c sl d).loads = s.loads :=
  State.loads_setChan s c _

@[simp] theorem State.loads_setDrive (s : State) (c : Chan) (sl : Slot) (d : Drive) : (s.setDrive c sl d).loads = s.loads :=
  State.loads_setSlot s c sl (some d)

@[simp] theorem State.nextLoader_setSlot (s : State) (c : Chan) (sl : Slot) (d : Option Drive) :
    (s.setSlot c sl d).nextLoader = s.nextLoader :=
  State.nextLoader_setChan s c _

@[simp] theorem State.nextLoader_setDrive (s : State) (c : Chan) (sl : Slot) (d : Drive) : (s.setDrive c sl d).nextLoader = s.nextLoader :=
  State.nextLoader_setSlot s c sl (some d)

@[simp] theorem State.guestStalled_setSlot (s : State) (c : Chan) (sl : Slot) (d : Option Drive) :
    (s.setSlot c sl d).guestStalled = s.guestStalled :=
  State.guestStalled_setChan s c _

@[simp] theorem State.guestStalled_setDrive (s : State) (c : Chan) (sl : Slot) (d : Drive) : (s.setDrive c sl d).guestStalled = s.guestStalled :=
  State.guestStalled_setSlot s c sl (some d)

@[simp] theorem State.inputs_setSlot (s : State) (c : Chan) (sl : Slot) (d : Option Drive) :
    (s.setSlot c sl d).inputs = s.inputs :=
  State.inputs_setChan s c _

@[simp] theorem State.inputs_setDrive (s : State) (c : Chan) (sl : Slot) (d : Drive) : (s.setDrive c sl d).inputs = s.inputs :=
  State.inputs_setSlot s c sl (some d)

@[simp] theorem State.answers_setSlot (s : State) (c : Chan) (sl : Slot) (d : Option Drive) :
    (s.setSlot c sl d).answers = s.answers :=
  State.answers_setChan s c _

@[simp] theorem State.answers_setDrive (s : State) (c : Chan) (sl : Slot) (d : Drive) : (s.setDrive c sl d).answers = s.answers :=
  State.answers_setSlot s c sl (some d)

@[simp] theorem State.draws_setSlot (s : State) (c : Chan) (sl : Slot) (d : Option Drive) :
    (s.setSlot c sl d).draws = s.draws :=
  State.draws_setChan s c _

@[simp] theorem State.draws_setDrive (s : State) (c : Chan) (sl : Slot) (d : Drive) : (s.setDrive c sl d).draws = s.draws :=
  State.draws_setSlot s c sl (some d)

@[simp] theorem State.reads_setSlot (s : State) (c : Chan) (sl : Slot) (d : Option Drive) :
    (s.setSlot c sl d).reads = s.reads :=
  State.reads_setChan s c _

@[simp] theorem State.reads_setDrive (s : State) (c : Chan) (sl : Slot) (d : Drive) : (s.setDrive c sl d).reads = s.reads :=
  State.reads_setSlot s c sl (some d)

@[simp] theorem State.events_setSlot (s : State) (c : Chan) (sl : Slot) (d : Option Drive) :
    (s.setSlot c sl d).events = s.events :=
  State.events_setChan s c _

@[simp] theorem State.events_setDrive (s : State) (c : Chan) (sl : Slot) (d : Drive) : (s.setDrive c sl d).events = s.events :=
  State.events_setSlot s c sl (some d)

@[simp] theorem State.released_setSlot (s : State) (c : Chan) (sl : Slot) (d : Option Drive) :
    (s.setSlot c sl d).released = s.released :=
  State.released_setChan s c _

@[simp] theorem State.released_setDrive (s : State) (c : Chan) (sl : Slot) (d : Drive) : (s.setDrive c sl d).released = s.released :=
  State.released_setSlot s c sl (some d)

@[simp] theorem State.cfg_setSlot (s : State) (c : Chan) (sl : Slot) (d : Option Drive) :
    (s.setSlot c sl d).cfg = s.cfg :=
  State.cfg_setChan s c _

@[simp] theorem State.cfg_setDrive (s : State) (c : Chan) (sl : Slot) (d : Drive) : (s.setDrive c sl d).cfg = s.cfg :=
  State.cfg_setSlot s c sl (some d)

/-! ### `emit` -/

@[simp] theorem State.loads_emit (s : State) (e : Event) : (s.emit e).loads = s.loads := rfl

@[simp] theorem State.nextLoader_emit (s : State) (e : Event) : (s.emit e).nextLoader = s.nextLoader := rfl

@[simp] theorem State.guestStalled_emit (s : State) (e : Event) : (s.emit e).guestStalled = s.guestStalled := rfl

@[simp] theorem State.inputs_emit (s : State) (e : Event) : (s.emit e).inputs = s.inputs := rfl

@[simp] theorem State.answers_emit (s : State) (e : Event) : (s.emit e).answers = s.answers := rfl

@[simp] theorem State.draws_emit (s : State) (e : Event) : (s.emit e).draws = s.draws := rfl

@[simp] theorem State.reads_emit (s : State) (e : Event) : (s.emit e).reads = s.reads := rfl

@[simp] theorem State.events_emit (s : State) (e : Event) : (s.emit e).events = e :: s.events := rfl

@[simp] theorem State.released_emit (s : State) (e : Event) : (s.emit e).released = s.released := rfl

@[simp] theorem State.cfg_emit (s : State) (e : Event) : (s.emit e).cfg = s.cfg := rfl

@[simp] theorem State.chan_emit (s : State) (e : Event) (c : Chan) : (s.emit e).chan c = s.chan c := by
  cases c <;> rfl

@[simp] theorem State.driveAt_emit (s : State) (e : Event) (c : Chan) (sl : Slot) : (s.emit e).driveAt c sl = s.driveAt c sl := by
  cases c <;> rfl

@[simp] theorem State.sel_emit (s : State) (e : Event) (c : Chan) : (s.emit e).sel c = s.sel c := by
  cases c <;> rfl

/-! ### `reply` -/

@[simp] theorem State.loads_reply (s : State) (v : Dword) : (s.reply v).loads = s.loads := rfl

@[simp] theorem State.nextLoader_reply (s : State) (v : Dword) : (s.reply v).nextLoader = s.nextLoader := rfl

@[simp] theorem State.guestStalled_reply (s : State) (v : Dword) : (s.reply v).guestStalled = s.guestStalled := rfl

@[simp] theorem State.inputs_reply (s : State) (v : Dword) : (s.reply v).inputs = s.inputs := rfl

@[simp] theorem State.answers_reply (s : State) (v : Dword) : (s.reply v).answers = s.answers := rfl

@[simp] theorem State.draws_reply (s : State) (v : Dword) : (s.reply v).draws = s.draws := rfl

@[simp] theorem State.reads_reply (s : State) (v : Dword) : (s.reply v).reads = v :: s.reads := rfl

@[simp] theorem State.events_reply (s : State) (v : Dword) : (s.reply v).events = s.events := rfl

@[simp] theorem State.released_reply (s : State) (v : Dword) : (s.reply v).released = s.released := rfl

@[simp] theorem State.cfg_reply (s : State) (v : Dword) : (s.reply v).cfg = s.cfg := rfl

@[simp] theorem State.chan_reply (s : State) (v : Dword) (c : Chan) : (s.reply v).chan c = s.chan c := by
  cases c <;> rfl

@[simp] theorem State.driveAt_reply (s : State) (v : Dword) (c : Chan) (sl : Slot) : (s.reply v).driveAt c sl = s.driveAt c sl := by
  cases c <;> rfl

@[simp] theorem State.sel_reply (s : State) (v : Dword) (c : Chan) : (s.reply v).sel c = s.sel c := by
  cases c <;> rfl

/-! ### `stall` -/

@[simp] theorem State.loads_stall (s : State) : s.stall.loads = s.loads := rfl

@[simp] theorem State.nextLoader_stall (s : State) : s.stall.nextLoader = s.nextLoader := rfl

@[simp] theorem State.guestStalled_stall (s : State) : s.stall.guestStalled = true := rfl

@[simp] theorem State.inputs_stall (s : State) : s.stall.inputs = s.inputs := rfl

@[simp] theorem State.answers_stall (s : State) : s.stall.answers = s.answers := rfl

@[simp] theorem State.draws_stall (s : State) : s.stall.draws = s.draws := rfl

@[simp] theorem State.reads_stall (s : State) : s.stall.reads = s.reads := rfl

@[simp] theorem State.events_stall (s : State) : s.stall.events = s.events := rfl

@[simp] theorem State.released_stall (s : State) : s.stall.released = s.released := rfl

@[simp] theorem State.cfg_stall (s : State) : s.stall.cfg = s.cfg := rfl

@[simp] theorem State.chan_stall (s : State) (c : Chan) : s.stall.chan c = s.chan c := by
  cases c <;> rfl

@[simp] theorem State.driveAt_stall (s : State) (c : Chan) (sl : Slot) : s.stall.driveAt c sl = s.driveAt c sl := by
  cases c <;> rfl

@[simp] theorem State.sel_stall (s : State) (c : Chan) : s.stall.sel c = s.sel c := by
  cases c <;> rfl

/-! ### `afterDraw` -/

@[simp] theorem State.loads_afterDraw (s : State) : s.afterDraw.loads = s.loads := rfl

@[simp] theorem State.nextLoader_afterDraw (s : State) : s.afterDraw.nextLoader = s.nextLoader := rfl

@[simp] theorem State.guestStalled_afterDraw (s : State) : s.afterDraw.guestStalled = s.guestStalled := rfl

@[simp] theorem State.inputs_afterDraw (s : State) : s.afterDraw.inputs = s.inputs := rfl

@[simp] theorem State.answers_afterDraw (s : State) : s.afterDraw.answers = s.answers.tail := rfl

@[simp] theorem State.draws_afterDraw (s : State) : s.afterDraw.draws = s.draws + 1 := rfl

@[simp] theorem State.reads_afterDraw (s : State) : s.afterDraw.reads = s.reads := rfl

@[simp] theorem State.events_afterDraw (s : State) : s.afterDraw.events = s.events := rfl

@[simp] theorem State.released_afterDraw (s : State) : s.afterDraw.released = s.released := rfl

@[simp] theorem State.cfg_afterDraw (s : State) : s.afterDraw.cfg = s.cfg := rfl

@[simp] theorem State.chan_afterDraw (s : State) (c : Chan) : s.afterDraw.chan c = s.chan c := by
  cases c <;> rfl

@[simp] theorem State.driveAt_afterDraw (s : State) (c : Chan) (sl : Slot) : s.afterDraw.driveAt c sl = s.driveAt c sl := by
  cases c <;> rfl

@[simp] theorem State.sel_afterDraw (s : State) (c : Chan) : s.afterDraw.sel c = s.sel c := by
  cases c <;> rfl

/-! ### `release` -/

@[simp] theorem State.loads_release (s : State) (m : Media) : (s.release m).loads = s.loads := by
  cases m <;> rfl

@[simp] theorem State.nextLoader_release (s : State) (m : Media) : (s.release m).nextLoader = s.nextLoader := by
  cases m <;> rfl

@[simp] theorem State.guestStalled_release (s : State) (m : Media) : (s.release m).guestStalled = s.guestStalled := by
  cases m <;> rfl

@[simp] theorem State.inputs_release (s : State) (m : Media) : (s.release m).inputs = s.inputs := by
  cases m <;> rfl

@[simp] theorem State.answers_release (s : State) (m : Media) : (s.release m).answers = s.answers := by
  cases m <;> rfl

@[simp] theorem State.draws_release (s : State) (m : Media) : (s.release m).draws = s.draws := by
  cases m <;> rfl

@[simp] theorem State.reads_release (s : State) (m : Media) : (s.release m).reads = s.reads := by
  cases m <;> rfl

@[simp] theorem State.events_release (s : State) (m : Media) : (s.release m).events = s.events := by
  cases m <;> rfl

@[simp] theorem State.cfg_release (s : State) (m : Media) : (s.release m).cfg = s.cfg := by
  cases m <;> rfl

@[simp] theorem State.chan_release (s : State) (m : Media) (c : Chan) : (s.release m).chan c = s.chan c := by
  cases m <;> cases c <;> rfl

@[simp] theorem State.driveAt_release (s : State) (m : Media) (c : Chan) (sl : Slot) :
    (s.release m).driveAt c sl = s.driveAt c sl := by
  simp [State.driveAt]

/-! ### The selection and device-control updates -/

@[simp] theorem State.driveAt_select (s : State) (c c' : Chan) (v : Byte) (sl : Slot) :
    (s.select c v).driveAt c' sl = s.driveAt c' sl := by
  cases c <;> cases c' <;> cases sl <;> rfl

@[simp] theorem State.devCtl_select (s : State) (c c' : Chan) (v : Byte) :
    ((s.select c v).chan c').devCtl = (s.chan c').devCtl := by
  cases c <;> cases c' <;> rfl

@[simp] theorem State.primarySelected_select_same (s : State) (c : Chan) (v : Byte) :
    ((s.select c v).chan c).primarySelected = selectsMaster v := by
  cases c <;> rfl

@[simp] theorem State.driveAt_storeDevCtl (s : State) (c c' : Chan) (v : Byte) (sl : Slot) :
    (s.storeDevCtl c v).driveAt c' sl = s.driveAt c' sl := by
  cases c <;> cases c' <;> cases sl <;> rfl

@[simp] theorem State.devCtl_storeDevCtl_same (s : State) (c : Chan) (v : Byte) :
    ((s.storeDevCtl c v).chan c).devCtl = v := by
  cases c <;> rfl

@[simp] theorem State.primarySelected_storeDevCtl (s : State) (c c' : Chan) (v : Byte) :
    ((s.storeDevCtl c v).chan c').primarySelected = (s.chan c').primarySelected := by
  cases c <;> cases c' <;> rfl

@[simp] theorem State.loads_select (s : State) (c : Chan) (v : Byte) : (s.select c v).loads = s.loads :=
  State.loads_setChan s c _

@[simp] theorem State.nextLoader_select (s : State) (c : Chan) (v : Byte) : (s.select c v).nextLoader = s.nextLoader :=
  State.nextLoader_setChan s c _

@[simp] theorem State.guestStalled_select (s : State) (c : Chan) (v : Byte) : (s.select c v).guestStalled = s.guestStalled :=
  State.guestStalled_setChan s c _

@[simp] theorem State.inputs_select (s : State) (c : Chan) (v : Byte) : (s.select c v).inputs = s.inputs :=
  State.inputs_setChan s c _

@[simp] theorem State.answers_select (s : State) (c : Chan) (v : Byte) : (s.select c v).answers = s.answers :=
  State.answers_setChan s c _

@[simp] theorem State.draws_select (s : State) (c : Chan) (v : Byte) : (s.select c v).draws = s.draws :=
  State.draws_setChan s c _

@[simp] theorem State.reads_select (s : State) (c : Chan) (v : Byte) : (s.select c v).reads = s.reads :=
  State.reads_setChan s c _

@[simp] theorem State.events_select (s : State) (c : Chan) (v : Byte) : (s.select c v).events = s.events :=
  State.events_setChan s c _

@[simp] theorem State.released_select (s : State) (c : Chan) (v : Byte) : (s.select c v).released = s.released :=
  State.released_setChan s c _

@[simp] theorem State.cfg_select (s : State) (c : Chan) (v : Byte) : (s.select c v).cfg = s.cfg :=
  State.cfg_setChan s c _

@[simp] theorem State.loads_storeDevCtl (s : State) (c : Chan) (v : Byte) : (s.storeDevCtl c v).loads = s.loads :=
  State.loads_setChan s c _

@[simp] theorem State.nextLoader_storeDevCtl (s : State) (c : Chan) (v : Byte) : (s.storeDevCtl c v).nextLoader = s.nextLoader :=
  State.nextLoader_setChan s c _

@[simp] theorem State.guestStalled_storeDevCtl (s : State) (c : Chan) (v : Byte) : (s.storeDevCtl c v).guestStalled = s.guestStalled :=
  State.guestStalled_setChan s c _

@[simp] theorem State.inputs_storeDevCtl (s : State) (c : Chan) (v : Byte) : (s.storeDevCtl c v).inputs = s.inputs :=
  State.inputs_setChan s c _

@[simp] theorem State.answers_storeDevCtl (s : State) (c : Chan) (v : Byte) : (s.storeDevCtl c v).answers = s.answers :=
  State.answers_setChan s c _

@[simp] theorem State.draws_storeDevCtl (s : State) (c : Chan) (v : Byte) : (s.storeDevCtl c v).draws = s.draws :=
  State.draws_setChan s c _

@[simp] theorem State.reads_storeDevCtl (s : State) (c : Chan) (v : Byte) : (s.storeDevCtl c v).reads = s.reads :=
  State.reads_setChan s c _

@[simp] theorem State.events_storeDevCtl (s : State) (c : Chan) (v : Byte) : (s.storeDevCtl c v).events = s.events :=
  State.events_setChan s c _

@[simp] theorem State.released_storeDevCtl (s : State) (c : Chan) (v : Byte) : (s.storeDevCtl c v).released = s.released :=
  State.released_setChan s c _

@[simp] theorem State.cfg_storeDevCtl (s : State) (c : Chan) (v : Byte) : (s.storeDevCtl c v).cfg = s.cfg :=
  State.cfg_setChan s c _

/-! ### Drives: what the buffer and cylinder updates leave alone -/

@[simp] theorem Drive.kind_stage (d : Drive) (ws : List Word) : (d.stage ws).kind = d.kind := rfl

@[simp] theorem Drive.error_stage (d : Drive) (ws : List Word) : (d.stage ws).error = d.error := rfl

@[simp] theorem Drive.sectorCount_stage (d : Drive) (ws : List Word) : (d.stage ws).sectorCount = d.sectorCount := rfl

@[simp] theorem Drive.sectorNumber_stage (d : Drive) (ws : List Word) : (d.stage ws).sectorNumber = d.sectorNumber := rfl

@[simp] theorem Drive.cylLow_stage (d : Drive) (ws : List Word) : (d.stage ws).cylLow = d.cylLow := rfl

@[simp] theorem Drive.cylHigh_stage (d : Drive) (ws : List Word) : (d.stage ws).cylHigh = d.cylHigh := rfl

@[simp] theorem Drive.driveHead_stage (d : Drive) (ws : List Word) : (d.stage ws).driveHead = d.driveHead := rfl

@[simp] theorem Drive.status_stage (d : Drive) (ws : List Word) : (d.stage ws).status = d.status := rfl

@[simp] theorem Drive.buf_stage (d : Drive) (ws : List Word) : (d.stage ws).buf = ws := rfl

@[simp] theorem Drive.cur_stage (d : Drive) (ws : List Word) : (d.stage ws).cur = 0 := rfl

@[simp] theorem Drive.packet_stage (d : Drive) (ws : List Word) : (d.stage ws).packet = d.packet := rfl

@[simp] theorem Drive.media_stage (d : Drive) (ws : List Word) : (d.stage ws).media = d.media := rfl

@[simp] theorem Drive.kind_discard (d : Drive) : d.discard.kind = d.kind := rfl

@[simp] theorem Drive.error_discard (d : Drive) : d.discard.error = d.error := rfl

@[simp] theorem Drive.sectorCount_discard (d : Drive) : d.discard.sectorCount = d.sectorCount := rfl

@[simp] theorem Drive.sectorNumber_discard (d : Drive) : d.discard.sectorNumber = d.sectorNumber := rfl

@[simp] theorem Drive.cylLow_discard (d : Drive) : d.discard.cylLow = d.cylLow := rfl

@[simp] theorem Drive.cylHigh_discard (d : Drive) : d.discard.cylHigh = d.cylHigh := rfl

@[simp] theorem Drive.driveHead_discard (d : Drive) : d.discard.driveHead = d.driveHead := rfl

@[simp] theorem Drive.status_discard (d : Drive) : d.discard.status = d.status := rfl

@[simp] theorem Drive.buf_discard (d : Drive) : d.discard.buf = [] := rfl

@[simp] theorem Drive.cur_discard (d : Drive) : d.discard.cur = 0 := rfl

@[simp] theorem Drive.packet_discard (d : Drive) : d.discard.packet = d.packet := rfl

@[simp] theorem Drive.media_discard (d : Drive) : d.discard.media = d.media := rfl

@[simp] theorem Drive.kind_finishRead (d : Drive) : d.finishRead.kind = d.kind := rfl

@[simp] theorem Drive.error_finishRead (d : Drive) : d.finishRead.error = d.error := rfl

@[simp] theorem Drive.sectorCount_finishRead (d : Drive) : d.finishRead.sectorCount = d.sectorCount := rfl

@[simp] theorem Drive.sectorNumber_finishRead (d : Drive) : d.finishRead.sectorNumber = d.sectorNumber := rfl

@[simp] theorem Drive.cylLow_finishRead (d : Drive) : d.finishRead.cylLow = d.cylLow := rfl

@[simp] theorem Drive.cylHigh_finishRead (d : Drive) : d.finishRead.cylHigh = d.cylHigh := rfl

@[simp] theorem Drive.driveHead_finishRead (d : Drive) : d.finishRead.driveHead = d.driveHead := rfl

@[simp] theorem Drive.status_finishRead (d : Drive) : d.finishRead.status = statusDrdy := rfl

@[simp] theorem Drive.buf_finishRead (d : Drive) : d.finishRead.buf = d.buf := rfl

@[simp] theorem Drive.cur_finishRead (d : Drive) : d.finishRead.cur = d.cur := rfl

@[simp] theorem Drive.packet_finishRead (d : Drive) : d.finishRead.packet = d.packet := rfl

@[simp] theorem Drive.media_finishRead (d : Drive) : d.finishRead.media = d.media := rfl

@[simp] theorem Drive.kind_finishCommand (d : Drive) : d.finishCommand.kind = d.kind := rfl

@[simp] theorem Drive.error_finishCommand (d : Drive) : d.finishCommand.error = d.error := rfl

@[simp] theorem Drive.sectorCount_finishCommand (d : Drive) : d.finishCommand.sectorCount = d.sectorCount := rfl

@[simp] theorem Drive.sectorNumber_finishCommand (d : Drive) : d.finishCommand.sectorNumber = d.sectorNumber := rfl

@[simp] theorem Drive.cylLow_finishCommand (d : Drive) : d.finishCommand.cylLow = d.cylLow := rfl

@[simp] theorem Drive.cylHigh_finishCommand (d : Drive) : d.finishCommand.cylHigh = d.cylHigh := rfl

@[simp] theorem Drive.driveHead_finishCommand (d : Drive) : d.finishCommand.driveHead = d.driveHead := rfl

@[simp] theorem Drive.status_finishCommand (d : Drive) : d.finishCommand.status = statusDrdy := rfl

@[simp] theorem Drive.buf_finishCommand (d : Drive) : d.finishCommand.buf = d.buf := rfl

@[simp] theorem Drive.cur_finishCommand (d : Drive) : d.finishCommand.cur = d.cur := rfl

@[simp] theorem Drive.packet_finishCommand (d : Drive) : d.finishCommand.packet = d.packet := rfl

@[simp] theorem Drive.media_finishCommand (d : Drive) : d.finishCommand.media = d.media := rfl

@[simp] theorem Drive.kind_fail (cfg : Config) (e : ErrCode) (d : Drive) : (d.fail cfg e).kind = d.kind := rfl

@[simp] theorem Drive.error_fail (cfg : Config) (e : ErrCode) (d : Drive) : (d.fail cfg e).error = errMask cfg.errBits e := rfl

@[simp] theorem Drive.sectorCount_fail (cfg : Config) (e : ErrCode) (d : Drive) : (d.fail cfg e).sectorCount = d.sectorCount := rfl

@[simp] theorem Drive.sectorNumber_fail (cfg : Config) (e : ErrCode) (d : Drive) : (d.fail cfg e).sectorNumber = d.sectorNumber := rfl

@[simp] theorem Drive.cylLow_fail (cfg : Config) (e : ErrCode) (d : Drive) : (d.fail cfg e).cylLow = d.cylLow := rfl

@[simp] theorem Drive.cylHigh_fail (cfg : Config) (e : ErrCode) (d : Drive) : (d.fail cfg e).cylHigh = d.cylHigh := rfl

@[simp] theorem Drive.driveHead_fail (cfg : Config) (e : ErrCode) (d : Drive) : (d.fail cfg e).driveHead = d.driveHead := rfl

@[simp] theorem Drive.status_fail (cfg : Config) (e : ErrCode) (d : Drive) : (d.fail cfg e).status = statusErr := rfl

@[simp] theorem Drive.buf_fail (cfg : Config) (e : ErrCode) (d : Drive) : (d.fail cfg e).buf = [] := rfl

@[simp] theorem Drive.cur_fail (cfg : Config) (e : ErrCode) (d : Drive) : (d.fail cfg e).cur = 0 := rfl

@[simp] theorem Drive.packet_fail (cfg : Config) (e : ErrCode) (d : Drive) : (d.fail cfg e).packet = d.packet := rfl

@[simp] theorem Drive.media_fail (cfg : Config) (e : ErrCode) (d : Drive) : (d.fail cfg e).media = d.media := rfl

@[simp] theorem Drive.kind_succeedWith (d : Drive) (ws : List Word) : (d.succeedWith ws).kind = d.kind := rfl

@[simp] theorem Drive.error_succeedWith (d : Drive) (ws : List Word) : (d.succeedWith ws).error = errNone := rfl

@[simp] theorem Drive.sectorCount_succeedWith (d : Drive) (ws : List Word) : (d.succeedWith ws).sectorCount = d.sectorCount := rfl

@[simp] theorem Drive.sectorNumber_succeedWith (d : Drive) (ws : List Word) : (d.succeedWith ws).sectorNumber = d.sectorNumber := rfl

@[simp] theorem Drive.cylLow_succeedWith (d : Drive) (ws : List Word) : (d.succeedWith ws).cylLow = d.cylLow := rfl

@[simp] theorem Drive.cylHigh_succeedWith (d : Drive) (ws : List Word) : (d.succeedWith ws).cylHigh = d.cylHigh := rfl

@[simp] theorem Drive.driveHead_succeedWith (d : Drive) (ws : List Word) : (d.succeedWith ws).driveHead = d.driveHead := rfl

@[simp] theorem Drive.status_succeedWith (d : Drive) (ws : List Word) : (d.succeedWith ws).status = statusDrq ||| statusDrdy := rfl

@[simp] theorem Drive.buf_succeedWith (d : Drive) (ws : List Word) : (d.succeedWith ws).buf = ws := rfl

@[simp] theorem Drive.cur_succeedWith (d : Drive) (ws : List Word) : (d.succeedWith ws).cur = 0 := rfl

@[simp] theorem Drive.packet_succeedWith (d : Drive) (ws : List Word) : (d.succeedWith ws).packet = d.packet := rfl

@[simp] theorem Drive.media_succeedWith (d : Drive) (ws : List Word) : (d.succeedWith ws).media = d.media := rfl

@[simp] theorem Drive.kind_writeDone (d : Drive) : d.writeDone.kind = d.kind := rfl

@[simp] theorem Drive.error_writeDone (d : Drive) : d.writeDone.error = errNone := rfl

@[simp] theorem Drive.sectorCount_writeDone (d : Drive) : d.writeDone.sectorCount = d.sectorCount := rfl

@[simp] theorem Drive.sectorNumber_writeDone (d : Drive) : d.writeDone.sectorNumber = d.sectorNumber := rfl

@[simp] theorem Drive.cylLow_writeDone (d : Drive) : d.writeDone.cylLow = d.cylLow := rfl

@[simp] theorem Drive.cylHigh_writeDone (d : Drive) : d.writeDone.cylHigh = d.cylHigh := rfl

@[simp] theorem Drive.driveHead_writeDone (d : Drive) : d.writeDone.driveHead = d.driveHead := rfl

@[simp] theorem Drive.status_writeDone (d : Drive) : d.writeDone.status = statusDrdy := rfl

@[simp] theorem Drive.buf_writeDone (d : Drive) : d.writeDone.buf = d.buf := rfl

@[simp] theorem Drive.cur_writeDone (d : Drive) : d.writeDone.cur = d.cur := rfl

@[simp] theorem Drive.packet_writeDone (d : Drive) : d.writeDone.packet = d.packet := rfl

@[simp] theorem Drive.media_writeDone (d : Drive) : d.writeDone.media = d.media := rfl

@[simp] theorem Drive.kind_hdReset (d : Drive) : d.hdReset.kind = d.kind := rfl

@[simp] theorem Drive.error_hdReset (d : Drive) : d.hdReset.error = errNone := rfl

@[simp] theorem Drive.sectorCount_hdReset (d : Drive) : d.hdReset.sectorCount = d.sectorCount := rfl

@[simp] theorem Drive.sectorNumber_hdReset (d : Drive) : d.hdReset.sectorNumber = d.sectorNumber := rfl

@[simp] theorem Drive.cylLow_hdReset (d : Drive) : d.hdReset.cylLow = 0x00 := rfl

@[simp] theorem Drive.cylHigh_hdReset (d : Drive) : d.hdReset.cylHigh = 0x00 := rfl

@[simp] theorem Drive.driveHead_hdReset (d : Drive) : d.hdReset.driveHead = d.driveHead := rfl

@[simp] theorem Drive.status_hdReset (d : Drive) : d.hdReset.status = statusDrdy := rfl

@[simp] theorem Drive.buf_hdReset (d : Drive) : d.hdReset.buf = [] := rfl

@[simp] theorem Drive.cur_hdReset (d : Drive) : d.hdReset.cur = 0 := rfl

@[simp] theorem Drive.packet_hdReset (d : Drive) : d.hdReset.packet = d.packet := rfl

@[simp] theorem Drive.media_hdReset (d : Drive) : d.hdReset.media = d.media := rfl

@[simp] theorem Drive.kind_cdReset (d : Drive) : d.cdReset.kind = d.kind := rfl

@[simp] theorem Drive.error_cdReset (d : Drive) : d.cdReset.error = errNone := rfl

@[simp] theorem Drive.sectorCount_cdReset (d : Drive) : d.cdReset.sectorCount = d.sectorCount := rfl

@[simp] theorem Drive.sectorNumber_cdReset (d : Drive) : d.cdReset.sectorNumber = d.sectorNumber := rfl

@[simp] theorem Drive.cylLow_cdReset (d : Drive) : d.cdReset.cylLow = 0x14 := rfl

@[simp] theorem Drive.cylHigh_cdReset (d : Drive) : d.cdReset.cylHigh = 0xEB := rfl

@[simp] theorem Drive.driveHead_cdReset (d : Drive) : d.cdReset.driveHead = d.driveHead := rfl

@[simp] theorem Drive.status_cdReset (d : Drive) : d.cdReset.status = statusDrdy ||| statusDsc := rfl

@[simp] theorem Drive.buf_cdReset (d : Drive) : d.cdReset.buf = [] := rfl

@[simp] theorem Drive.cur_cdReset (d : Drive) : d.cdReset.cur = 0 := rfl

@[simp] theorem Drive.packet_cdReset (d : Drive) : d.cdReset.packet = d.packet := rfl

@[simp] theorem Drive.media_cdReset (d : Drive) : d.cdReset.media = d.media := rfl

@[simp] theorem Drive.kind_setCyl (d : Drive) (v : Nat) : (d.setCyl v).kind = d.kind := rfl

@[simp] theorem Drive.error_setCyl (d : Drive) (v : Nat) : (d.setCyl v).error = d.error := rfl

@[simp] theorem Drive.sectorCount_setCyl (d : Drive) (v : Nat) : (d.setCyl v).sectorCount = d.sectorCount := rfl

@[simp] theorem Drive.sectorNumber_setCyl (d : Drive) (v : Nat) : (d.setCyl v).sectorNumber = d.sectorNumber := rfl

@[simp] theorem Drive.cylLow_setCyl (d : Drive) (v : Nat) : (d.setCyl v).cylLow = lowByte (BitVec.ofNat 16 v) := rfl

@[simp] theorem Drive.cylHigh_setCyl (d : Drive) (v : Nat) : (d.setCyl v).cylHigh = highByte (BitVec.ofNat 16 v) := rfl

@[simp] theorem Drive.driveHead_setCyl (d : Drive) (v : Nat) : (d.setCyl v).driveHead = d.driveHead := rfl

@[simp] theorem Drive.status_setCyl (d : Drive) (v : Nat) : (d.setCyl v).status = d.status := rfl

@[simp] theorem Drive.buf_setCyl (d : Drive) (v : Nat) : (d.setCyl v).buf = d.buf := rfl

@[simp] theorem Drive.cur_setCyl (d : Drive) (v : Nat) : (d.setCyl v).cur = d.cur := rfl

@[simp] theorem Drive.packet_setCyl (d : Drive) (v : Nat) : (d.setCyl v).packet = d.packet := rfl

@[simp] theorem Drive.media_setCyl (d : Drive) (v : Nat) : (d.setCyl v).media = d.media := rfl

end Sys2Proof.Machine
end

