-- ==== Sys2Proof/Laws/Buffer.lean ====
section
/-! SUPPORT. What one data-port access does to a drive, said once (41_buffer_protocol.md R140 to R142), and the bytes a
buffer stands for (20_memory.md R53). -/

namespace Sys2Proof.Machine

/-- A data read with no word left (41_buffer_protocol.md R140). -/
theorem Drive.bufRead_of_le {d : Drive} (e : EarlyFinish) (h : d.buf.length ≤ d.cur) : d.bufRead e = (0, d) := by
  unfold Drive.bufRead
  rw [if_pos h]

/-- A data read with a word left (41_buffer_protocol.md R140, R141). -/
theorem Drive.bufRead_of_lt {d : Drive} (e : EarlyFinish) (h : d.cur < d.buf.length) :
    d.bufRead e = (d.buf.getD d.cur 0,
      { d with
        cur := d.cur + 1
        status := if earlyFinishFires e (d.cur + 1) d.cyl = true ∨ d.cur + 1 = d.buf.length then statusDrdy
          else d.status
        cylLow := if earlyFinishFires e (d.cur + 1) d.cyl = true then
          lowByte (BitVec.ofNat 16 (2 * (d.buf.length - (d.cur + 1)))) else d.cylLow
        cylHigh := if earlyFinishFires e (d.cur + 1) d.cyl = true then
          highByte (BitVec.ofNat 16 (2 * (d.buf.length - (d.cur + 1)))) else d.cylHigh }) := by
  have hc : ({ d with cur := d.cur + 1 } : Drive).cyl = d.cyl := rfl
  unfold Drive.bufRead
  rw [if_neg (by omega)]
  unfold Drive.endOfRead Drive.earlyFinish
  rw [hc]
  generalize earlyFinishFires e (d.cur + 1) d.cyl = fires
  by_cases h2 : d.cur + 1 = d.buf.length
  · cases fires <;> simp only [Drive.setCyl, Drive.finishRead, if_pos h2, reduceIte, Bool.false_eq_true] <;> simp [h2]
  · cases fires <;> simp only [Drive.setCyl, Drive.finishRead, if_neg h2, reduceIte, Bool.false_eq_true] <;> simp [h2]

/-- A data write with no room (41_buffer_protocol.md R142). -/
theorem Drive.bufWrite_of_le {d : Drive} (w : Word) (h : d.buf.length ≤ d.cur) : d.bufWrite w = d := by
  unfold Drive.bufWrite
  rw [if_pos h]

/-- A data write with room (41_buffer_protocol.md R142). -/
theorem Drive.bufWrite_of_lt {d : Drive} (w : Word) (h : d.cur < d.buf.length) :
    d.bufWrite w =
      { d with
        buf := d.buf.set d.cur w
        cur := d.cur + 1
        status := if d.cur + 1 = d.buf.length then statusDrdy else d.status } := by
  unfold Drive.bufWrite
  rw [if_neg (by omega)]
  unfold Drive.endOfWrite
  simp only [List.length_set]
  split <;> rfl

/-- With cylinder 0 no data read finishes early, in either reading of R141. -/
theorem earlyFinishFires_zero (e : EarlyFinish) (k : Nat) : earlyFinishFires e (k + 1) 0 = false := by
  cases e <;> simp [earlyFinishFires]

/-- Byte i of a buffer (20_memory.md R53). -/
theorem getD_bytesOf (ws : List Word) (i : Nat) :
    (bytesOf ws).getD i 0 = (ws.getD (i / 2) 0).extractLsb' (8 * (i % 2)) 8 := by
  induction ws generalizing i with
  | nil => simp [bytesOf]
  | cons w ws ih =>
    match i with
    | 0 => simp [bytesOf, lowByte]
    | 1 => simp [bytesOf, highByte]
    | i + 2 =>
      simp only [bytesOf, List.getD_cons_succ, ih]
      rw [show (i + 2) / 2 = i / 2 + 1 by omega, show (i + 2) % 2 = i % 2 by omega, List.getD_cons_succ]

/-- Word i of packed bytes (20_memory.md R53). -/
theorem getElem?_words (bs : List Byte) (i : Nat) (h : 2 * i + 1 < bs.length) :
    (words bs)[i]? = some (joinBytes (bs.getD (2 * i) 0) (bs.getD (2 * i + 1) 0)) := by
  induction bs using words.induct generalizing i with
  | case1 => simp at h
  | case2 lo => simp at h
  | case3 lo hi rest ih =>
    match i with
    | 0 => simp [words]
    | i + 1 =>
      simp only [List.length_cons] at h
      rw [words, List.getElem?_cons_succ, ih i (by omega)]
      rw [show 2 * (i + 1) = 2 * i + 2 by omega]
      simp [show 2 * i + 2 + 1 = (2 * i + 1) + 1 + 1 by omega]

end Sys2Proof.Machine
end

