-- ==== Sys2Proof/Laws/Decode.lean ====
section
/-! SUPPORT. The decoder's shared parts: where the mapped ports lead (20_memory.md R65, 30_encoding.md R71), and that the
bytes of an access give the access back. -/

namespace Sys2Proof

open Machine

@[simp] theorem decodePort_taskPort_0 (c : Chan) : decodePort (taskPort c 0) = .taskFile c 0 := by cases c <;> decide
@[simp] theorem decodePort_taskPort_1 (c : Chan) : decodePort (taskPort c 1) = .taskFile c 1 := by cases c <;> decide
@[simp] theorem decodePort_taskPort_2 (c : Chan) : decodePort (taskPort c 2) = .taskFile c 2 := by cases c <;> decide
@[simp] theorem decodePort_taskPort_3 (c : Chan) : decodePort (taskPort c 3) = .taskFile c 3 := by cases c <;> decide
@[simp] theorem decodePort_taskPort_4 (c : Chan) : decodePort (taskPort c 4) = .taskFile c 4 := by cases c <;> decide
@[simp] theorem decodePort_taskPort_5 (c : Chan) : decodePort (taskPort c 5) = .taskFile c 5 := by cases c <;> decide
@[simp] theorem decodePort_taskPort_6 (c : Chan) : decodePort (taskPort c 6) = .taskFile c 6 := by cases c <;> decide
@[simp] theorem decodePort_taskPort_7 (c : Chan) : decodePort (taskPort c 7) = .taskFile c 7 := by cases c <;> decide
@[simp] theorem decodePort_controlPort (c : Chan) : decodePort (controlPort c) = .control c := by cases c <;> decide

/-- A port outside the map is not decoded (30_encoding.md R71). -/
theorem decodePort_unmapped {p : BitVec 16} (h : mappedPort p = false) : decodePort p = .notDecoded := by
  simp only [mappedPort, Bool.or_eq_false_iff, Bool.and_eq_false_iff, decide_eq_false_iff_not,
    beq_eq_false_iff_ne] at h
  unfold decodePort
  simp only
  rw [if_neg (by tauto), if_neg h.2]

/-- The four bytes of a 32-bit value, joined again. -/
@[simp] theorem bigEndian32_bytes (v : Dword) :
    bigEndian32 (byteOfDword v 3) (byteOfDword v 2) (byteOfDword v 1) (byteOfDword v 0) = v := by
  apply BitVec.eq_of_getLsbD_eq
  intro i hi
  unfold bigEndian32 byteOfDword
  simp only [BitVec.getLsbD_append, BitVec.getLsbD_extractLsb']
  by_cases h1 : i < 8
  · simp [h1]
  · by_cases h2 : i - 8 < 8
    · simp [h1, h2, show 8 + (i - 8) = i by omega]
    · by_cases h3 : i - 8 - 8 < 8
      · simp [h1, h2, h3, show 16 + (i - 8 - 8) = i by omega]
      · have h4 : i - 8 - 8 - 8 < 8 := by omega
        simp [h1, h2, h3, h4, show 24 + (i - 8 - 8 - 8) = i by omega]

/-- The two bytes of a 16-bit value, joined again. -/
@[simp] theorem bigEndian16_bytes (v : BitVec 16) : bigEndian16 (highByte v) (lowByte v) = v := joinBytes_low_high v

/-- An admitted size comes back from its byte (20_memory.md R52; log 4). -/
theorem admittedSize_byte {n : Nat} (h : admittedSize n = true) : (BitVec.ofNat 8 (n - 1)).toNat + 1 = n := by
  simp only [admittedSize, Bool.or_eq_true, beq_iff_eq] at h
  rcases h with (h | h) | h <;> subst h <;> rfl

/-- The bytes of a read give the read back. -/
theorem accessOfBytes_encodeRead (p : BitVec 16) {n : Nat} (h : admittedSize n = true) (rest : List Byte) :
    accessOfBytes (encodeRead p n ++ rest) = .ok (⟨.read, p, n, 0⟩, rest) := by
  simp only [encodeRead, List.cons_append, List.nil_append, accessOfBytes, admittedSize_byte h, joinBytes_low_high]
  rfl

/-- The bytes of a write give the write back. -/
theorem accessOfBytes_encodeWrite (p : BitVec 16) {n : Nat} (v : Dword) (h : admittedSize n = true)
    (rest : List Byte) : accessOfBytes (encodeWrite p n v ++ rest) = .ok (⟨.write, p, n, v⟩, rest) := by
  simp only [encodeWrite, List.cons_append, List.nil_append, accessOfBytes, admittedSize_byte h, joinBytes_low_high,
    bigEndian32_bytes]
  rfl

end Sys2Proof
end

