-- ==== Sys2Proof/Laws/Memory.lean ====
section
/-! SUPPORT. Backing stores: every operation keeps the canonical form, and a read after a write (20_memory.md R56, R58). -/

namespace Sys2Proof.Machine

/-! ### Cells -/

theorem cellsWf_mono {lo lo' limit : Nat} {cs : List Host.Cell} (h : lo' ≤ lo) (hw : cellsWf lo limit cs = true) :
    cellsWf lo' limit cs = true := by
  cases cs with
  | nil => rfl
  | cons c rest =>
    obtain ⟨a, b⟩ := c
    simp only [cellsWf, Bool.and_eq_true, decide_eq_true_eq] at hw ⊢
    exact ⟨⟨⟨by omega, hw.1.1.2⟩, hw.1.2⟩, hw.2⟩

theorem cellAt_eq_zero_of_lt {lo limit x : Nat} {cs : List Host.Cell} (hw : cellsWf lo limit cs = true) (hx : x < lo) :
    cellAt cs x = 0x00 := by
  induction cs generalizing lo with
  | nil => rfl
  | cons c rest ih =>
    obtain ⟨a, b⟩ := c
    simp only [cellsWf, Bool.and_eq_true, decide_eq_true_eq] at hw
    rw [cellAt, if_neg (by omega)]
    exact ih hw.2 (by omega)

/-- Writing one cell keeps the canonical form. -/
theorem cellsWf_putCell {lo limit x : Nat} {cs : List Host.Cell} (v : Byte) (hw : cellsWf lo limit cs = true)
    (hlo : lo ≤ x) (hx : x < limit) : cellsWf lo limit (putCell cs x v) = true := by
  induction cs generalizing lo with
  | nil =>
    by_cases hv : v = 0#8 <;> simp [putCell, cellsWf, hv, hlo, hx]
  | cons c rest ih =>
    obtain ⟨a, b⟩ := c
    have hw' := hw
    simp only [cellsWf, Bool.and_eq_true, decide_eq_true_eq] at hw'
    rw [putCell]
    split
    · simp only [cellsWf, Bool.and_eq_true, decide_eq_true_eq]
      exact ⟨hw'.1, ih hw'.2 (by omega)⟩
    · split
      · split
        · exact cellsWf_mono (by omega) hw'.2
        · rename_i hax hv
          simp only [cellsWf, Bool.and_eq_true, decide_eq_true_eq]
          exact ⟨⟨⟨hlo, hx⟩, by simpa using hv⟩, hax ▸ hw'.2⟩
      · split
        · exact hw
        · rename_i hv
          simp only [cellsWf, Bool.and_eq_true, decide_eq_true_eq]
          exact ⟨⟨⟨hlo, hx⟩, by simpa using hv⟩, ⟨⟨by omega, hw'.1.1.2⟩, hw'.1.2⟩, hw'.2⟩

/-- What the cells hold after one cell is written. -/
theorem cellAt_putCell {lo limit : Nat} {cs : List Host.Cell} (x y : Nat) (v : Byte)
    (hw : cellsWf lo limit cs = true) : cellAt (putCell cs x v) y = if y = x then v else cellAt cs y := by
  induction cs generalizing lo with
  | nil =>
    by_cases hv : v = 0#8 <;> by_cases hy : y = x <;> simp [putCell, cellAt, hv, hy, eq_comm (a := x)]
  | cons c rest ih =>
    obtain ⟨a, b⟩ := c
    simp only [cellsWf, Bool.and_eq_true, decide_eq_true_eq] at hw
    rw [putCell]
    split
    · rw [cellAt, cellAt, ih hw.2]
      by_cases hay : a = y
      · rw [if_pos hay, if_pos hay, if_neg (by omega)]
      · rw [if_neg hay, if_neg hay]
    · split
      · rename_i _ hax
        split
        · rename_i hv
          by_cases hy : y = x
          · rw [if_pos hy, hv, hy]
            exact cellAt_eq_zero_of_lt hw.2 (by omega)
          · rw [if_neg hy, cellAt, if_neg (by omega)]
        · by_cases hy : y = x
          · rw [if_pos hy, cellAt, if_pos hy.symm]
          · rw [if_neg hy, cellAt, if_neg (by omega), cellAt, if_neg (by omega)]
      · have hlt : x < a := by omega
        split
        · rename_i hv
          by_cases hy : y = x
          · rw [if_pos hy, hv, hy, cellAt, if_neg (by omega)]
            exact cellAt_eq_zero_of_lt hw.2 (by omega)
          · rw [if_neg hy]
        · by_cases hy : y = x
          · rw [if_pos hy, cellAt, if_pos hy.symm]
          · rw [if_neg hy, cellAt, if_neg (fun h => hy h.symm)]

/-! ### Stores -/

@[simp] theorem Memory.len_writeByte (m : Memory) (a : Nat) (v : Byte) : (m.writeByte a v).len = m.len := by
  unfold Memory.writeByte; split <;> rfl

@[simp] theorem Memory.len_writeBytes (m : Memory) (off : Nat) (bs : List Byte) : (m.writeBytes off bs).len = m.len := by
  induction bs generalizing m off with
  | nil => rfl
  | cons b bs ih => rw [Memory.writeBytes, ih, Memory.len_writeByte]

/-- One byte written keeps the canonical form. -/
theorem Memory.wf_writeByte {m : Memory} (h : m.wf = true) (a : Nat) (v : Byte) : (m.writeByte a v).wf = true := by
  unfold Memory.writeByte
  split
  · exact cellsWf_putCell v h (Nat.zero_le a) ‹_›
  · exact h

/-- Bytes written keep the canonical form. -/
theorem Memory.wf_writeBytes {m : Memory} (h : m.wf = true) (off : Nat) (bs : List Byte) :
    (m.writeBytes off bs).wf = true := by
  induction bs generalizing m off with
  | nil => exact h
  | cons b bs ih => exact ih (Memory.wf_writeByte h off b) (off + 1)

theorem Memory.wf_foldl {m : Memory} (h : m.wf = true) (cs : List Host.Cell) :
    (cs.foldl (fun m c => m.writeByte c.1 c.2) m).wf = true := by
  induction cs generalizing m with
  | nil => exact h
  | cons c cs ih => exact ih (Memory.wf_writeByte h c.1 c.2)

/-- A store the host hands over is in canonical form. -/
theorem Memory.wf_ofImage (img : Image) : (Memory.ofImage img).wf = true :=
  Memory.wf_foldl rfl img.cells

@[simp] theorem Memory.len_ofImage (img : Image) : (Memory.ofImage img).len = img.len := by
  have h : ∀ (cs : List Host.Cell) (m : Memory), (cs.foldl (fun m c => m.writeByte c.1 c.2) m).len = m.len := by
    intro cs
    induction cs with
    | nil => intro m; rfl
    | cons c cs ih => intro m; rw [List.foldl_cons, ih, Memory.len_writeByte]
  exact h img.cells _

/-- A byte after one byte is written. -/
theorem Memory.byteAt_writeByte {m : Memory} (h : m.wf = true) (a x : Nat) (v : Byte) :
    (m.writeByte a v).byteAt x = if x = a ∧ a < m.len then v else m.byteAt x := by
  unfold Memory.writeByte
  split
  · rename_i ha
    simp only [Memory.byteAt, cellAt_putCell a x v h, ha, and_true]
  · rename_i ha
    rw [if_neg (fun h => ha h.2)]

/-- A byte after bytes are written inside the store. -/
theorem Memory.byteAt_writeBytes {m : Memory} (h : m.wf = true) (off x : Nat) (bs : List Byte)
    (hb : off + bs.length ≤ m.len) :
    (m.writeBytes off bs).byteAt x = if off ≤ x ∧ x < off + bs.length then bs.getD (x - off) 0 else m.byteAt x := by
  induction bs generalizing m off with
  | nil => rw [if_neg (by simp)]; rfl
  | cons b bs ih =>
    simp only [List.length_cons] at hb
    rw [Memory.writeBytes, ih (Memory.wf_writeByte h off b) (off + 1) (by rw [Memory.len_writeByte]; omega),
      Memory.byteAt_writeByte h]
    by_cases h1 : x = off
    · subst h1
      rw [if_neg (by omega), if_pos (by omega), if_pos (by simp)]
      simp
    · by_cases h2 : off ≤ x ∧ x < off + (b :: bs).length
      · rw [if_pos (by simp only [List.length_cons] at h2; omega), if_pos h2]
        obtain ⟨k, hk⟩ : ∃ k, x - off = k + 1 := ⟨x - off - 1, by omega⟩
        rw [hk, List.getD_cons_succ, show x - (off + 1) = k by omega]
      · rw [if_neg (by simp only [List.length_cons] at h2; omega), if_neg (fun h => h1 h.1), if_neg h2]

@[simp] theorem Memory.length_readBytes (m : Memory) (off n : Nat) : (m.readBytes off n).length = n := by
  simp [Memory.readBytes]

theorem Memory.getD_readBytes (m : Memory) (off n i : Nat) (hi : i < n) :
    (m.readBytes off n).getD i 0 = m.byteAt (off + i) := by
  simp [Memory.readBytes, List.getD, hi]

@[simp] theorem Memory.length_readClipped (m : Memory) (off n : Nat) :
    (m.readClipped off n).length = min (off + n) m.len - off := by
  simp [Memory.readClipped]

/-- Reading back the bytes just written (20_memory.md R58). -/
theorem Memory.readBytes_writeBytes {m : Memory} (h : m.wf = true) (off : Nat) (bs : List Byte)
    (hb : off + bs.length ≤ m.len) : (m.writeBytes off bs).readBytes off bs.length = bs := by
  apply List.ext_getElem
  · simp
  · intro i h1 h2
    simp only [Memory.readBytes, List.getElem_map, List.getElem_range]
    rw [Memory.byteAt_writeBytes h off _ bs hb, if_pos (by omega), Nat.add_sub_cancel_left]
    simp [h2]

end Sys2Proof.Machine
end

