-- ==== Sys2Proof/Laws/Ops.lean ====
section
/-! SUPPORT. One lemma for each shared operation that says what it can do; proofs cite these instead of unfolding it. -/

namespace Sys2Proof.Machine

/-! ### Outcomes -/

/-- An admitted size lets the access through (40_controller_ports.md R101). -/
@[simp] theorem whenAdmitted_next {n : Nat} (h : admittedSize n = true) (r : Result) : whenAdmitted n r = r := by
  simp [whenAdmitted, h]

/-- An access that gives a next state had an admitted size. -/
theorem whenAdmitted_eq_next {n : Nat} {r : Result} {t : State} (h : whenAdmitted n r = .next t) :
    admittedSize n = true ∧ r = .next t := by
  unfold whenAdmitted at h
  split at h
  · exact ⟨‹_›, h⟩
  · cases h

theorem next_inj {a b : State} (h : (Host.Outcome.next a : Result) = .next b) : a = b := by
  injection h

/-! ### Selection -/

/-- The selected drive stands in its slot (40_controller_ports.md R102). -/
theorem State.driveAt_of_sel {s : State} {c : Chan} {sl : Slot} {d : Drive} (h : s.sel c = some (sl, d)) :
    s.driveAt c sl = some d := by
  unfold State.sel Channel.sel at h
  unfold State.driveAt
  split at h
  · split at h
    · simp only [Option.some.injEq, Prod.mk.injEq] at h
      obtain ⟨rfl, rfl⟩ := h
      exact ‹_›
    · simp only [Option.map_eq_some_iff, Prod.mk.injEq] at h
      obtain ⟨d', hd, rfl, rfl⟩ := h
      exact hd
  · simp only [Option.map_eq_some_iff, Prod.mk.injEq] at h
    obtain ⟨d', hd, rfl, rfl⟩ := h
    exact hd

/-- Selection looks only at the channel's slots and selection bit. -/
theorem State.sel_congr {s t : State} {c : Chan} (h : t.chan c = s.chan c) : t.sel c = s.sel c := by
  simp [State.sel, h]

/-- Storing a drive in the selected slot keeps it selected. -/
theorem State.sel_setDrive {s : State} {c : Chan} {sl : Slot} {d : Drive} (h : s.sel c = some (sl, d)) (d' : Drive) :
    (s.setDrive c sl d').sel c = some (sl, d') := by
  unfold State.sel State.setDrive State.setSlot at *
  rw [State.chan_setChan_same]
  generalize s.chan c = ch at h
  cases ch with
  | mk m v dc ps =>
    cases m <;> cases v <;> cases ps <;> simp_all [Channel.sel, Channel.setSlot] <;>
      (try (obtain ⟨rfl, rfl⟩ := h; rfl))

/-- Storing a drive that is already there changes nothing. -/
theorem State.setDrive_self {s : State} {c : Chan} {sl : Slot} {d : Drive} (h : s.driveAt c sl = some d) :
    s.setDrive c sl d = s := by
  unfold State.setDrive State.setSlot
  have : (s.chan c).setSlot sl (some d) = s.chan c := by
    unfold State.driveAt at h
    cases sl <;> simp only [Channel.slot] at h <;> simp [Channel.setSlot, ← h]
  rw [this, State.setChan_chan]

/-- Storing twice in one slot keeps the second drive. -/
@[simp] theorem State.setDrive_setDrive (s : State) (c : Chan) (sl : Slot) (d d' : Drive) :
    (s.setDrive c sl d).setDrive c sl d' = s.setDrive c sl d' := by
  cases c <;> cases sl <;> rfl

/-- Emitting an event and storing a drive commute. -/
theorem State.setDrive_emit (s : State) (e : Event) (c : Chan) (sl : Slot) (d : Drive) :
    (s.emit e).setDrive c sl d = (s.setDrive c sl d).emit e := by
  cases c <;> cases sl <;> rfl

/-! ### Commands -/

/-- A command on a selected drive of its backend runs. -/
theorem onBackend_of_sel {c : Chan} {k : Kind} {s : State} {sl : Slot} {d : Drive} (h : s.sel c = some (sl, d))
    (hk : d.kind = k) (run : Slot → Drive → Result) : onBackend c k s run = run sl d := by
  simp [onBackend, h, hk]

/-- Everything a command can do: log with no drive, abort on the other backend, or run. -/
theorem onBackend_eq_next {c : Chan} {k : Kind} {s t : State} {run : Slot → Drive → Result}
    (h : onBackend c k s run = .next t) :
    (s.sel c = none ∧ t = s.emit (.commandNoDrive c)) ∨
    (∃ sl d, s.sel c = some (sl, d) ∧ d.kind ≠ k ∧ t = s.setDrive c sl (d.fail s.cfg .aborted)) ∨
    (∃ sl d, s.sel c = some (sl, d) ∧ d.kind = k ∧ run sl d = .next t) := by
  unfold onBackend at h
  split at h
  · exact .inl ⟨‹_›, (next_inj h).symm⟩
  · rename_i sl d hs
    split at h
    · exact .inr (.inr ⟨sl, d, hs, ‹_›, h⟩)
    · exact .inr (.inl ⟨sl, d, hs, ‹_›, (next_inj h).symm⟩)

/-- Everything a register read can do (40_controller_ports.md R103, R106 to R116). -/
theorem regRead_eq_next {c : Chan} {n : Nat} {reg : Drive → Byte} {s t : State} (h : regRead c n reg s = .next t) :
    ∃ v, t = s.reply v := by
  obtain ⟨-, h⟩ := whenAdmitted_eq_next h
  have h := next_inj h
  split at h <;> exact ⟨_, h.symm⟩

/-- Everything a register write can do (40_controller_ports.md R103, R109 to R115). -/
theorem regWrite_eq_next {c : Chan} {n : Nat} {v : Dword} {put : Byte → Drive → Drive} {s t : State}
    (h : regWrite c n v put s = .next t) :
    (s.sel c = none ∧ t = s) ∨
    (∃ sl d, s.sel c = some (sl, d) ∧ t = s.setDrive c sl (put (valueByte v) d)) := by
  obtain ⟨-, h⟩ := whenAdmitted_eq_next h
  have h := next_inj h
  split at h
  · exact .inl ⟨‹_›, h.symm⟩
  · exact .inr ⟨_, _, ‹_›, h.symm⟩

/-- Everything the store access of READ_SECTORS can do (42_hard_disk.md R162). -/
theorem hdReadAccess_eq_next {c : Chan} {sl : Slot} {d : Drive} {m : Memory} {s t : State}
    (h : hdReadAccess c sl d m s = .next t) :
    (s.nextAnswer = .stall ∧ t = s.afterDraw.stall) ∨
    (s.nextAnswer = .ok ∧ d.hdOffset + hdSector ≤ m.len ∧
      t = s.afterDraw.setDrive c sl (d.succeedWith (words (m.readBytes d.hdOffset hdSector)))) := by
  unfold hdReadAccess at h
  split at h
  · exact .inl ⟨‹_›, (next_inj h).symm⟩
  · cases h
  · split at h
    · exact .inr ⟨‹_›, ‹_›, (next_inj h).symm⟩
    · cases h

/-- Everything the store access of WRITE_SECTORS can do (42_hard_disk.md R163). -/
theorem hdWriteAccess_eq_next {c : Chan} {sl : Slot} {d : Drive} {m : Memory} {s t : State}
    (h : hdWriteAccess c sl d m s = .next t) :
    (s.nextAnswer = .stall ∧ t = s.afterDraw.stall) ∨
    (s.nextAnswer = .ok ∧ d.hdOffset + hdSector ≤ m.len ∧
      t = s.afterDraw.setDrive c sl
        { d.writeDone with media := .attached (m.writeBytes d.hdOffset (bytesOf d.buf)) }) := by
  unfold hdWriteAccess at h
  split at h
  · exact .inl ⟨‹_›, (next_inj h).symm⟩
  · cases h
  · split at h
    · exact .inr ⟨‹_›, ‹_›, (next_inj h).symm⟩
    · cases h

/-- Everything the stream access of a packet READ can do (43_atapi.md R198, R202). -/
theorem cdReadAccess_eq_next {c : Chan} {sl : Slot} {d : Drive} {m : Memory} {lba n : Nat} {s t : State}
    (h : cdReadAccess c sl d m lba n s = .next t) :
    t = s.afterDraw.stall ∨
    (∃ e, (e = .badBlock ∨ e = .uncorrectable) ∧ t = s.afterDraw.setDrive c sl (d.fail s.cfg e)) ∨
    (n * cdSector ≤ (m.readClipped (lba * cdSector) (n * cdSector)).length ∧
      t = s.afterDraw.setDrive c sl (d.succeedWith (words (m.readClipped (lba * cdSector) (n * cdSector))))) := by
  unfold cdReadAccess at h
  split at h
  · exact .inl (next_inj h).symm
  · exact .inr (.inl ⟨_, .inl rfl, (next_inj h).symm⟩)
  · simp only at h
    split at h
    · exact .inr (.inl ⟨_, .inr rfl, (next_inj h).symm⟩)
    · exact .inr (.inr ⟨by omega, (next_inj h).symm⟩)

/-- The bytes an ATAPI image gives for a request that ends within it are the request's (20_memory.md R57). -/
theorem Memory.readClipped_within (m : Memory) {off n : Nat} (h : off + n ≤ m.len) :
    m.readClipped off n = m.readBytes off n := by
  unfold Memory.readClipped
  rw [show min (off + n) m.len - off = n by omega]

/-! ### Channel reset and SRST release -/

/-- Where a channel reset puts the drives (44_host_operations.md R234). -/
theorem State.driveAt_resetChannel (s : State) (c c' : Chan) (sl : Slot) :
    (s.resetChannel c).driveAt c' sl =
      if c' = c then (s.driveAt c' sl).map Drive.backendReset else s.driveAt c' sl := by
  unfold State.resetChannel
  split
  · rename_i h
    simp only [Bool.and_eq_true, Option.isNone_iff_eq_none] at h
    rw [State.driveAt_emit]
    split
    · rename_i hc
      subst hc
      unfold State.driveAt
      cases sl <;> simp [Channel.slot, h.1, h.2]
    · rfl
  · unfold State.driveAt
    rw [State.chan_setChan]
    split
    · rename_i hc
      rw [hc, Channel.slot_mapDrives]
    · rfl

/-- Where the SRST release puts the drives (40_controller_ports.md R124). -/
theorem State.driveAt_srstRelease (s : State) (c c' : Chan) (sl : Slot) :
    (s.srstRelease c).driveAt c' sl =
      if c' = c then (s.driveAt c' sl).map fun d => { d with status := srstReleaseStatus d.status }
      else s.driveAt c' sl := by
  unfold State.srstRelease State.driveAt
  rw [State.chan_setChan]
  split
  · rename_i hc
    rw [hc, Channel.slot_mapDrives]
  · rfl

/-- A channel reset leaves everything but drives and events alone. -/
theorem State.frame_resetChannel (s : State) (c : Chan) :
    (∀ c', ((s.resetChannel c).chan c').devCtl = (s.chan c').devCtl ∧
      ((s.resetChannel c).chan c').primarySelected = (s.chan c').primarySelected) ∧
    (s.resetChannel c).loads = s.loads ∧ (s.resetChannel c).nextLoader = s.nextLoader ∧
    (s.resetChannel c).guestStalled = s.guestStalled ∧ (s.resetChannel c).inputs = s.inputs ∧
    (s.resetChannel c).answers = s.answers ∧ (s.resetChannel c).draws = s.draws ∧
    (s.resetChannel c).reads = s.reads ∧ (s.resetChannel c).released = s.released ∧
    (s.resetChannel c).cfg = s.cfg := by
  unfold State.resetChannel
  split
  · simp
  · refine ⟨fun c' => ?_, by simp⟩
    rw [State.chan_setChan]
    split
    · rename_i hc; subst hc; exact ⟨rfl, rfl⟩
    · exact ⟨rfl, rfl⟩

/-! ### The next input -/

/-- The next input of a guest that is not stalled is the first (20_memory.md R61). -/
@[simp] theorem nextInput_running (inp : Input) (rest : List Input) :
    nextInput false (inp :: rest) = some (inp, rest) := by
  cases inp <;> rfl

/-- A host or loader input at the head is the next one, stalled guest or not (60_exceptions.md R270). -/
theorem nextInput_host {inp : Input} (stalled : Bool) (rest : List Input) (h : ∀ a, inp ≠ .guest a) :
    nextInput stalled (inp :: rest) = some (inp, rest) := by
  cases inp with
  | guest a => exact absurd rfl (h a)
  | _ => rfl

/-- The next input of a stalled guest is no guest access, and all guest accesses stay (60_exceptions.md R270). -/
theorem nextInput_stalled {ins rest : List Input} {inp : Input} (h : nextInput true ins = some (inp, rest)) :
    (∀ a, inp ≠ .guest a) ∧ ∃ gs tl, (∀ g ∈ gs, ∃ a, g = .guest a) ∧ ins = gs ++ inp :: tl ∧ rest = gs ++ tl := by
  induction ins generalizing rest with
  | nil => cases h
  | cons x xs ih =>
    cases x with
    | guest a =>
      simp only [nextInput, if_true, Option.map_eq_some_iff, Prod.mk.injEq] at h
      obtain ⟨p, hp, rfl, rfl⟩ := h
      obtain ⟨hn, gs, tl, hg, hx, hr⟩ := ih (rest := p.2) (by simpa using hp)
      refine ⟨hn, .guest a :: gs, tl, ?_, by simp [hx], by simp [hr]⟩
      intro g hg'
      rcases List.mem_cons.1 hg' with rfl | hg'
      · exact ⟨a, rfl⟩
      · exact hg g hg'
    | _ =>
      simp only [nextInput, Option.some.injEq, Prod.mk.injEq] at h
      obtain ⟨rfl, rfl⟩ := h
      exact ⟨(fun a ha => by cases ha), [], xs, by simp, rfl, rfl⟩

end Sys2Proof.Machine
end

