-- ==== Sys2Proof/Laws/Exec.lean ====
section
/-! SUPPORT. What one instruction can do, said once: to a drive (`DriveStep`), to the state (`Effect`, `exec_effect`),
and what no instruction touches (`Static`). -/

namespace Sys2Proof.Machine

/-- The lengths of a buffer just staged by a command (41_buffer_protocol.md R147). -/
def freshLength (n : Nat) : Prop := n = 18 ∨ n = 256 ∨ ∃ k, 1 ≤ k ∧ k ≤ 65535 ∧ n = k * 1024

theorem freshLength.staged {n : Nat} (h : freshLength n) : stagedLength n := .inr h

theorem freshLength.pos {n : Nat} (h : freshLength n) : 0 < n := by
  rcases h with rfl | rfl | ⟨k, hk, -, rfl⟩ <;> omega

/-- Everything one instruction can do to a drive. -/
inductive DriveStep (cfg : Config) (d : Drive) : Drive → Prop
  /-- Nothing. -/
  | same : DriveStep cfg d d
  /-- A register write (40_controller_ports.md R109 to R117). -/
  | regs (a b e f g : Byte) :
      DriveStep cfg d { d with sectorCount := a, sectorNumber := b, cylLow := e, cylHigh := f, driveHead := g }
  /-- A data read (41_buffer_protocol.md R140). -/
  | read : DriveStep cfg d (d.bufRead cfg.earlyFinish).2
  /-- A data write (R142). -/
  | write (w : Word) : DriveStep cfg d (d.bufWrite w)
  /-- Its backend's Reset (42_hard_disk.md R160, 43_atapi.md R190). -/
  | reset : DriveStep cfg d d.backendReset
  /-- The SRST release (40_controller_ports.md R124). -/
  | ready : DriveStep cfg d { d with status := srstReleaseStatus d.status }
  /-- A failed command, after its packet if it was one (60_exceptions.md R262). -/
  | fail (p : Vector Byte 12) (e : ErrCode)
      (h : e = .aborted ∨ e = .idNotFound ∨ e = .uncorrectable ∨ e = .badBlock) :
      DriveStep cfg d ({ d with packet := p }.fail cfg e)
  /-- A command that stages data, after its packet if it was one. -/
  | staged (p : Vector Byte 12) (ws : List Word) (h : freshLength ws.length) :
      DriveStep cfg d ({ d with packet := p }.succeedWith ws)
  /-- A sector written (42_hard_disk.md R163). -/
  | written (m : Memory) (h : d.media = .attached m) :
      DriveStep cfg d { d.writeDone with media := .attached (m.writeBytes d.hdOffset (bytesOf d.buf)) }
  /-- A PACKET whose stream access stalls (60_exceptions.md R270). -/
  | packet (p : Vector Byte 12) : DriveStep cfg d { d with packet := p }

/-- What no instruction touches: loads, inputs, given-back stores, configuration. -/
structure Static (s t : State) : Prop where
  loads : t.loads = s.loads
  nextLoader : t.nextLoader = s.nextLoader
  inputs : t.inputs = s.inputs
  released : t.released = s.released
  cfg : t.cfg = s.cfg

/-- What an instruction other than DRVHD_WR and DEVCTL_WR does: nothing to any channel, or one `DriveStep` of the
selected drive of its channel. -/
def Effect (c : Chan) (s t : State) : Prop :=
  Static s t ∧
    ((∀ c', t.chan c' = s.chan c') ∨
      ∃ sl d d', s.sel c = some (sl, d) ∧ DriveStep s.cfg d d' ∧ ∀ c', t.chan c' = (s.setDrive c sl d').chan c')

/-- An outcome whose channels and untouched fields are those of `s`. -/
theorem Effect.quiet {c : Chan} {s t : State} (hs : Static s t) (h : ∀ c', t.chan c' = s.chan c') : Effect c s t :=
  ⟨hs, .inl h⟩

theorem Effect.refl (c : Chan) (s : State) : Effect c s s := .quiet ⟨rfl, rfl, rfl, rfl, rfl⟩ fun _ => rfl

theorem Effect.emit (c : Chan) (s : State) (e : Event) : Effect c s (s.emit e) :=
  .quiet ⟨rfl, rfl, rfl, rfl, rfl⟩ (by simp)

theorem Effect.reply (c : Chan) (s : State) (v : Dword) : Effect c s (s.reply v) :=
  .quiet ⟨rfl, rfl, rfl, rfl, rfl⟩ (by simp)

theorem Effect.stall (c : Chan) (s : State) : Effect c s s.afterDraw.stall :=
  .quiet ⟨rfl, rfl, rfl, rfl, rfl⟩ (by simp)

/-- One drive stored. -/
theorem Effect.drive {c : Chan} {s : State} {sl : Slot} {d d' : Drive} (h : s.sel c = some (sl, d))
    (hd : DriveStep s.cfg d d') : Effect c s (s.setDrive c sl d') :=
  ⟨by constructor <;> simp, .inr ⟨sl, d, d', h, hd, fun _ => rfl⟩⟩

/-- Storing a drive after the store access has been answered. -/
theorem Effect.drive_afterDraw {c : Chan} {s : State} {sl : Slot} {d d' : Drive} (h : s.sel c = some (sl, d))
    (hd : DriveStep s.cfg d d') : Effect c s (s.afterDraw.setDrive c sl d') := by
  refine ⟨by constructor <;> simp, .inr ⟨sl, d, d', h, hd, fun c' => ?_⟩⟩
  cases c <;> cases c' <;> cases sl <;> rfl

/-- An effect on the state to which an event has been emitted is one on the state. -/
theorem Effect.of_emit {c : Chan} {s t : State} {e : Event} (h : Effect c (s.emit e) t) : Effect c s t := by
  obtain ⟨hs, h⟩ := h
  refine ⟨⟨hs.1, hs.2, hs.3, hs.4, hs.5⟩, ?_⟩
  rcases h with h | ⟨sl, d, d', hsel, hd, h⟩
  · exact .inl fun c' => by rw [h c', State.chan_emit]
  · refine .inr ⟨sl, d, d', by simpa using hsel, hd, fun c' => ?_⟩
    rw [h c', State.setDrive_emit, State.chan_emit]

/-- An effect followed by a read result. -/
theorem Effect.then_reply {c : Chan} {s t : State} (h : Effect c s t) (v : Dword) : Effect c s (t.reply v) := by
  obtain ⟨hs, h⟩ := h
  refine ⟨⟨hs.1, hs.2, hs.3, hs.4, hs.5⟩, ?_⟩
  rcases h with h | ⟨sl, d, d', hsel, hd, h⟩
  · exact .inl fun c' => by rw [State.chan_reply, h c']
  · exact .inr ⟨sl, d, d', hsel, hd, fun c' => by rw [State.chan_reply, h c']⟩

theorem effect_regRead {c : Chan} {n : Nat} {reg : Drive → Byte} {s t : State} (h : regRead c n reg s = .next t) :
    Effect c s t := by
  obtain ⟨v, rfl⟩ := regRead_eq_next h
  exact .reply c s v

theorem effect_regWrite {c : Chan} {n : Nat} {v : Dword} {put : Byte → Drive → Drive} {s t : State}
    (hp : ∀ b d, DriveStep s.cfg d (put b d)) (h : regWrite c n v put s = .next t) : Effect c s t := by
  rcases regWrite_eq_next h with ⟨-, rfl⟩ | ⟨sl, d, hs, rfl⟩
  · exact .refl c t
  · exact .drive hs (hp _ d)

theorem freshLength_hd : freshLength 256 := .inr (.inl rfl)

/-- The sectors of a READ are between 1 and 65535 (30_encoding.md R82). -/
theorem sectorsOf_bounds (len : BitVec 16) : 1 ≤ sectorsOf len ∧ sectorsOf len ≤ 65535 := by
  unfold sectorsOf
  split
  · omega
  · rename_i h
    have h1 : len.toNat ≠ 0 := fun h0 => h (BitVec.eq_of_toNat_eq (by simpa using h0))
    have h2 := len.isLt
    omega

theorem effect_readSectors {c : Chan} {s t : State} (h : execReadSectors c s = .next t) : Effect c s t := by
  rcases onBackend_eq_next h with ⟨-, rfl⟩ | ⟨sl, d, hs, -, rfl⟩ | ⟨sl, d, hs, -, h⟩
  · exact .emit c s _
  · exact .drive hs (.fail d.packet _ (by simp))
  · split at h
    · exact next_inj h ▸ .drive hs (.fail d.packet _ (by simp))
    · exact next_inj h ▸ .drive hs (.fail d.packet _ (by simp))
    · split at h
      · exact next_inj h ▸ .drive hs (.fail d.packet _ (by simp))
      · rcases hdReadAccess_eq_next h with ⟨-, rfl⟩ | ⟨-, -, rfl⟩
        · exact .stall c s
        · exact .drive_afterDraw hs (.staged d.packet _ (by
            simpa [length_words, hdSector] using freshLength_hd))

theorem effect_writeSectors {c : Chan} {s t : State} (h : execWriteSectors c s = .next t) : Effect c s t := by
  rcases onBackend_eq_next h with ⟨-, rfl⟩ | ⟨sl, d, hs, -, rfl⟩ | ⟨sl, d, hs, -, h⟩
  · exact .emit c s _
  · exact .drive hs (.fail d.packet _ (by simp))
  · split at h
    · exact next_inj h ▸ .drive hs (.fail d.packet _ (by simp))
    · exact next_inj h ▸ .drive hs (.fail d.packet _ (by simp))
    · rename_i m hm
      split at h
      · exact next_inj h ▸ .drive hs (.fail d.packet _ (by simp))
      · split at h
        · exact next_inj h ▸ .drive hs (.fail d.packet _ (by simp))
        · rcases hdWriteAccess_eq_next h with ⟨-, rfl⟩ | ⟨-, -, rfl⟩
          · exact .stall c s
          · exact .drive_afterDraw hs (.written m hm)

theorem effect_identifyDevice {c : Chan} {s t : State} (h : execIdentifyDevice c s = .next t) : Effect c s t := by
  rcases onBackend_eq_next h with ⟨-, rfl⟩ | ⟨sl, d, hs, -, rfl⟩ | ⟨sl, d, hs, -, h⟩
  · exact .emit c s _
  · exact .drive hs (.fail d.packet _ (by simp))
  · exact next_inj h ▸ .drive hs (.staged d.packet _ (by simpa using freshLength_hd))

theorem effect_identifyPacketDevice {c : Chan} {s t : State} (h : execIdentifyPacketDevice c s = .next t) :
    Effect c s t := by
  rcases onBackend_eq_next h with ⟨-, rfl⟩ | ⟨sl, d, hs, -, rfl⟩ | ⟨sl, d, hs, -, h⟩
  · exact .emit c s _
  · exact .drive hs (.fail d.packet _ (by simp))
  · exact next_inj h ▸ .drive hs (.staged d.packet _ (by simpa using freshLength_hd))

/-- A default row aborts whatever the backend (42_hard_disk.md R165, 43_atapi.md R199, R200). -/
theorem effect_abort {c : Chan} {k : Kind} {s t : State}
    (h : (onBackend c k s fun sl d => .next (s.setDrive c sl (d.fail s.cfg .aborted))) = .next t) : Effect c s t := by
  rcases onBackend_eq_next h with ⟨-, rfl⟩ | ⟨sl, d, hs, -, rfl⟩ | ⟨sl, d, hs, -, h⟩
  · exact .emit c s _
  · exact .drive hs (.fail d.packet _ (by simp))
  · exact next_inj h ▸ .drive hs (.fail d.packet _ (by simp))

theorem freshLength_inquiry (v : Vector Byte 36) : freshLength (words v.toList).length := by
  rw [length_words]
  exact .inl (by simp)

theorem effect_inquiry {c : Chan} {s t : State} (h : execInquiry c s = .next t) : Effect c s t := by
  rcases onBackend_eq_next h with ⟨-, rfl⟩ | ⟨sl, d, hs, -, rfl⟩ | ⟨sl, d, hs, -, h⟩
  · exact .emit c s _
  · exact .drive hs (.fail d.packet _ (by simp))
  · exact next_inj h ▸ .drive hs (.staged d.packet _ (freshLength_inquiry _))

/-- The words of a successful packet READ (43_atapi.md R198). -/
theorem length_words_readClipped {m : Memory} {off n : Nat}
    (h : n * cdSector ≤ (m.readClipped off (n * cdSector)).length) :
    (words (m.readClipped off (n * cdSector))).length = n * 1024 := by
  rw [length_words]
  rw [Memory.length_readClipped] at h ⊢
  unfold cdSector at *
  omega

theorem effect_cdRead {c : Chan} {lba n : Nat} {s t : State} (hn : 1 ≤ n ∧ n ≤ 65535) (h : cdRead c lba n s = .next t) :
    Effect c s t := by
  rcases onBackend_eq_next h with ⟨-, rfl⟩ | ⟨sl, d, hs, -, rfl⟩ | ⟨sl, d, hs, -, h⟩
  · exact .emit c s _
  · exact .drive hs (.fail d.packet _ (by simp))
  · split at h
    · exact next_inj h ▸ .drive hs (.fail d.packet _ (by simp))
    · exact next_inj h ▸ .drive hs (.fail d.packet _ (by simp))
    · rcases cdReadAccess_eq_next h with rfl | ⟨e, he, rfl⟩ | ⟨hl, rfl⟩
      · exact .stall c s
      · exact .drive_afterDraw hs (.fail d.packet e (by tauto))
      · exact .drive_afterDraw hs (.staged d.packet _
          (.inr (.inr ⟨n, hn.1, hn.2, length_words_readClipped hl⟩)))

theorem effect_read10 {c : Chan} {lba : Dword} {len : BitVec 16} {s t : State}
    (h : execRead10 c lba len s = .next t) : Effect c s t :=
  effect_cdRead (sectorsOf_bounds len) h

theorem effect_read12 {c : Chan} {lba : Dword} {len : BitVec 16} {s t : State}
    (h : execRead12 c lba len s = .next t) : Effect c s t :=
  effect_cdRead (sectorsOf_bounds len) h

/-- What a packet command does: the selected drive stays, fails with one of three codes, or stages data. -/
def PacketEffect (c : Chan) (sl : Slot) (d : Drive) (s t : State) : Prop :=
  Static s t ∧ ∃ d', (∀ c', t.chan c' = (s.setDrive c sl d').chan c') ∧
    (d' = d ∨ (∃ e, (e = .aborted ∨ e = .uncorrectable ∨ e = .badBlock) ∧ d' = d.fail s.cfg e) ∨
      ∃ ws, freshLength ws.length ∧ d' = d.succeedWith ws)

theorem PacketEffect.abort (c : Chan) (sl : Slot) (d : Drive) (s : State) :
    PacketEffect c sl d s (s.setDrive c sl (d.fail s.cfg .aborted)) :=
  ⟨by constructor <;> simp, _, fun _ => rfl, .inr (.inl ⟨_, .inl rfl, rfl⟩)⟩

/-- A packet command on the selected drive: an abort on the other backend, or what it runs. -/
theorem packetEffect_onBackend {c : Chan} {k : Kind} {r : Slot → Drive → Result} {s t : State} {sl : Slot} {d : Drive}
    (hs : s.sel c = some (sl, d)) (h : onBackend c k s r = .next t)
    (hr : r sl d = .next t → PacketEffect c sl d s t) : PacketEffect c sl d s t := by
  rcases onBackend_eq_next h with ⟨hn, -⟩ | ⟨sl', d'', hs', -, rfl⟩ | ⟨sl', d'', hs', -, h⟩
  · rw [hs] at hn; cases hn
  · cases hs.symm.trans hs'
    exact .abort c sl d s
  · cases hs.symm.trans hs'
    exact hr h

theorem packetEffect_cdRead {c : Chan} {lba n : Nat} {s t : State} {sl : Slot} {d : Drive}
    (hs : s.sel c = some (sl, d)) (hn : 1 ≤ n ∧ n ≤ 65535) (h : cdRead c lba n s = .next t) :
    PacketEffect c sl d s t := by
  have hdraw : ∀ d' c', (s.afterDraw.setDrive c sl d').chan c' = (s.setDrive c sl d').chan c' := by
    intro d' c'
    cases c <;> cases c' <;> cases sl <;> rfl
  refine packetEffect_onBackend hs h fun h => ?_
  split at h
  · cases next_inj h
    exact .abort c sl d s
  · cases next_inj h
    exact .abort c sl d s
  · rcases cdReadAccess_eq_next h with rfl | ⟨e, he, rfl⟩ | ⟨hl, rfl⟩
    · refine ⟨by constructor <;> simp, d, fun c' => ?_, .inl rfl⟩
      rw [State.setDrive_self (State.driveAt_of_sel hs), State.chan_stall, State.chan_afterDraw]
    · exact ⟨by constructor <;> simp, _, hdraw _, .inr (.inl ⟨e, by tauto, rfl⟩)⟩
    · exact ⟨by constructor <;> simp, _, hdraw _,
        .inr (.inr ⟨_, .inr (.inr ⟨n, hn.1, hn.2, length_words_readClipped hl⟩), rfl⟩)⟩

/-- Everything the packet dispatch can do (43_atapi.md R194). -/
theorem packetEffect_cdRunPacket {c : Chan} {p : Vector Byte 12} {s t : State} {sl : Slot} {d : Drive}
    (hs : s.sel c = some (sl, d)) (h : cdRunPacket c p s = .next t) : PacketEffect c sl d s t := by
  unfold cdRunPacket at h
  split at h
  · refine packetEffect_onBackend hs h fun h => ?_
    cases next_inj h
    exact ⟨by constructor <;> simp, _, fun _ => rfl, .inr (.inr ⟨_, freshLength_inquiry _, rfl⟩)⟩
  · split at h
    · exact packetEffect_cdRead hs (sectorsOf_bounds _) h
    · split at h
      · exact packetEffect_cdRead hs (sectorsOf_bounds _) h
      · refine packetEffect_onBackend hs h fun h => ?_
        cases next_inj h
        exact .abort c sl d s

theorem effect_packet {c : Chan} {s t : State} (h : execPacket c s = .next t) : Effect c s t := by
  rcases onBackend_eq_next h with ⟨-, rfl⟩ | ⟨sl, d, hs, -, rfl⟩ | ⟨sl, d, hs, -, h⟩
  · exact .emit c s _
  · exact .drive hs (.fail d.packet _ (by simp))
  · obtain ⟨hst, d', hc, hd⟩ := packetEffect_cdRunPacket (State.sel_setDrive hs _) h
    refine ⟨⟨by simp [hst.1], by simp [hst.2], by simp [hst.3], by simp [hst.4], by simp [hst.5]⟩,
      .inr ⟨sl, d, d', hs, ?_, fun c' => by rw [hc c', State.setDrive_setDrive]⟩⟩
    rcases hd with rfl | ⟨e, he, rfl⟩ | ⟨ws, hw, rfl⟩
    · exact .packet _
    · rw [State.cfg_setDrive]; exact .fail _ e (by tauto)
    · exact .staged _ ws hw

theorem effect_commandWr {c : Chan} {n : Nat} {v : Dword} {s t : State} (h : execCommandWr c n v s = .next t) :
    Effect c s t := by
  obtain ⟨-, h⟩ := whenAdmitted_eq_next h
  split at h
  · exact next_inj h ▸ .emit c s _
  · rename_i sl d hs
    apply Effect.of_emit (e := .account d.kind c 7 .write)
    unfold runCommand hdRunCommand cdRunCommand at h
    split at h
    · split at h
      · exact effect_readSectors h
      · split at h
        · exact effect_writeSectors h
        · split at h
          · exact effect_identifyDevice h
          · exact effect_abort h
    · split at h
      · exact effect_identifyPacketDevice h
      · split at h
        · exact effect_packet h
        · exact effect_abort h

theorem effect_dataRd {c : Chan} {n : Nat} {s t : State} (h : execDataRd c n s = .next t) : Effect c s t := by
  obtain ⟨-, h⟩ := whenAdmitted_eq_next h
  cases next_inj h
  split
  · exact .reply c s 0
  · exact (Effect.of_emit (Effect.drive (by simpa using ‹s.sel c = _›) .read)).then_reply _

theorem effect_dataWr {c : Chan} {n : Nat} {v : Dword} {s t : State} (h : execDataWr c n v s = .next t) :
    Effect c s t := by
  obtain ⟨-, h⟩ := whenAdmitted_eq_next h
  cases next_inj h
  split
  · exact .refl c s
  · exact Effect.of_emit (Effect.drive (by simpa using ‹s.sel c = _›) (.write _))

theorem effect_statusRd {c : Chan} {n : Nat} {s t : State} (h : execStatusRd c n s = .next t) : Effect c s t := by
  obtain ⟨-, h⟩ := whenAdmitted_eq_next h
  cases next_inj h
  split
  · exact .reply c s 0
  · exact (Effect.emit c s _).then_reply _

/-- Everything DRVHD_WR can do (40_controller_ports.md R117). -/
theorem drvhdWr_eq_next {c : Chan} {n : Nat} {v : Dword} {s t : State} (h : execDrvhdWr c n v s = .next t) :
    t = s.select c (valueByte v) ∨
    ∃ sl d, (s.select c (valueByte v)).sel c = some (sl, d) ∧
      t = (s.select c (valueByte v)).setDrive c sl { d with driveHead := valueByte v } := by
  obtain ⟨-, h⟩ := whenAdmitted_eq_next h
  cases next_inj h
  dsimp only
  split
  · exact .inl rfl
  · exact .inr ⟨_, _, ‹_›, rfl⟩

/-- Everything DEVCTL_WR can do (40_controller_ports.md R122 to R124). -/
theorem devctlWr_eq_next {c : Chan} {n : Nat} {v : Dword} {s t : State} (h : execDevctlWr c n v s = .next t) :
    t = s.storeDevCtl c (valueByte v) ∨ t = (s.storeDevCtl c (valueByte v)).resetChannel c ∨
    t = (s.storeDevCtl c (valueByte v)).srstRelease c := by
  obtain ⟨-, h⟩ := whenAdmitted_eq_next h
  cases next_inj h
  dsimp only
  split <;> simp

/-- Everything an instruction can do, DRVHD_WR and DEVCTL_WR apart. -/
theorem exec_effect {i : Instr} {s t : State} (h : exec i s = .next t) :
    (∃ c, (i.channel? = some c ∨ i.channel? = none) ∧ Effect c s t) ∨
    (∃ c n v, i = .drvhdWr c n v ∧ execDrvhdWr c n v s = .next t) ∨
    (∃ c n v, i = .devctlWr c n v ∧ execDevctlWr c n v s = .next t) := by
  cases i with
  | dataRd c n => exact .inl ⟨c, .inl rfl, effect_dataRd h⟩
  | dataWr c n v => exact .inl ⟨c, .inl rfl, effect_dataWr h⟩
  | errorRd c n => exact .inl ⟨c, .inl rfl, effect_regRead h⟩
  | precompWr c n v => exact .inl ⟨c, .inl rfl, next_inj (whenAdmitted_eq_next h).2 ▸ .refl c s⟩
  | seccntRd c n => exact .inl ⟨c, .inl rfl, effect_regRead h⟩
  | seccntWr c n v =>
    exact .inl ⟨c, .inl rfl, effect_regWrite (fun b d => .regs b d.sectorNumber d.cylLow d.cylHigh d.driveHead) h⟩
  | secnumRd c n => exact .inl ⟨c, .inl rfl, effect_regRead h⟩
  | secnumWr c n v =>
    exact .inl ⟨c, .inl rfl, effect_regWrite (fun b d => .regs d.sectorCount b d.cylLow d.cylHigh d.driveHead) h⟩
  | cylloRd c n => exact .inl ⟨c, .inl rfl, effect_regRead h⟩
  | cylloWr c n v =>
    exact .inl ⟨c, .inl rfl, effect_regWrite (fun b d => .regs d.sectorCount d.sectorNumber b d.cylHigh d.driveHead) h⟩
  | cylhiRd c n => exact .inl ⟨c, .inl rfl, effect_regRead h⟩
  | cylhiWr c n v =>
    exact .inl ⟨c, .inl rfl, effect_regWrite (fun b d => .regs d.sectorCount d.sectorNumber d.cylLow b d.driveHead) h⟩
  | drvhdRd c n => exact .inl ⟨c, .inl rfl, effect_regRead h⟩
  | drvhdWr c n v => exact .inr (.inl ⟨c, n, v, rfl, h⟩)
  | statusRd c n => exact .inl ⟨c, .inl rfl, effect_statusRd h⟩
  | commandWr c n v => exact .inl ⟨c, .inl rfl, effect_commandWr h⟩
  | devctlRd c n => exact .inl ⟨c, .inl rfl, next_inj (whenAdmitted_eq_next h).2 ▸ .reply c s _⟩
  | devctlWr c n v => exact .inr (.inr ⟨c, n, v, rfl, h⟩)
  | unmappedRd p n => exact .inl ⟨.primary, .inr rfl, next_inj (whenAdmitted_eq_next h).2 ▸ .reply _ s _⟩
  | unmappedWr p n v => exact .inl ⟨.primary, .inr rfl, next_inj (whenAdmitted_eq_next h).2 ▸ .refl _ s⟩
  | readSectors c => exact .inl ⟨c, .inl rfl, effect_readSectors h⟩
  | writeSectors c => exact .inl ⟨c, .inl rfl, effect_writeSectors h⟩
  | identifyDevice c => exact .inl ⟨c, .inl rfl, effect_identifyDevice h⟩
  | hdAbortOther c op => exact .inl ⟨c, .inl rfl, effect_abort h⟩
  | packet c => exact .inl ⟨c, .inl rfl, effect_packet h⟩
  | identifyPacketDevice c => exact .inl ⟨c, .inl rfl, effect_identifyPacketDevice h⟩
  | atapiAbortOther c op => exact .inl ⟨c, .inl rfl, effect_abort h⟩
  | inquiry c => exact .inl ⟨c, .inl rfl, effect_inquiry h⟩
  | read10 c lba len => exact .inl ⟨c, .inl rfl, effect_read10 h⟩
  | read12 c lba len => exact .inl ⟨c, .inl rfl, effect_read12 h⟩
  | pktAbortOther c pop => exact .inl ⟨c, .inl rfl, effect_abort h⟩

/-- An effect, drive by drive: no drive appears or goes, and each takes one `DriveStep`. -/
theorem Effect.drives {c : Chan} {s t : State} (h : Effect c s t) (c' : Chan) (sl : Slot) :
    (s.driveAt c' sl = none ∧ t.driveAt c' sl = none) ∨
    ∃ d d', s.driveAt c' sl = some d ∧ t.driveAt c' sl = some d' ∧ DriveStep s.cfg d d' := by
  have hsame : t.driveAt c' sl = s.driveAt c' sl → (s.driveAt c' sl = none ∧ t.driveAt c' sl = none) ∨
      ∃ d d', s.driveAt c' sl = some d ∧ t.driveAt c' sl = some d' ∧ DriveStep s.cfg d d' := by
    intro hh
    cases hd : s.driveAt c' sl with
    | none => exact .inl ⟨rfl, hh.trans hd⟩
    | some d => exact .inr ⟨d, d, rfl, hh.trans hd, .same⟩
  rcases h.2 with hq | ⟨sl', d, d', hs, hd, hq⟩
  · exact hsame (by simp [State.driveAt, hq])
  · have ht : t.driveAt c' sl = (s.setDrive c sl' d').driveAt c' sl := by simp [State.driveAt, hq]
    rw [State.driveAt_setDrive] at ht
    split at ht
    · rename_i hc
      obtain ⟨rfl, rfl⟩ := hc
      exact .inr ⟨d, d', State.driveAt_of_sel hs, ht, hd⟩
    · exact hsame ht

/-- No instruction makes a drive appear or go, and each drive takes one `DriveStep`. -/
theorem exec_drives {i : Instr} {s t : State} (h : exec i s = .next t) (c : Chan) (sl : Slot) :
    (s.driveAt c sl = none ∧ t.driveAt c sl = none) ∨
    ∃ d d', s.driveAt c sl = some d ∧ t.driveAt c sl = some d' ∧ DriveStep s.cfg d d' := by
  have hmap : ∀ (f : Drive → Drive), (∀ d, DriveStep s.cfg d (f d)) →
      (t.driveAt c sl = s.driveAt c sl ∨ t.driveAt c sl = (s.driveAt c sl).map f) →
      (s.driveAt c sl = none ∧ t.driveAt c sl = none) ∨
      ∃ d d', s.driveAt c sl = some d ∧ t.driveAt c sl = some d' ∧ DriveStep s.cfg d d' := by
    intro f hf hh
    cases hd : s.driveAt c sl with
    | none => simp only [hd, Option.map_none, or_self] at hh; exact .inl ⟨rfl, hh⟩
    | some d =>
      simp only [hd, Option.map_some] at hh
      rcases hh with hh | hh
      · exact .inr ⟨d, d, rfl, hh, .same⟩
      · exact .inr ⟨d, f d, rfl, hh, hf d⟩
  rcases exec_effect h with ⟨c0, -, he⟩ | ⟨c0, n, v, -, he⟩ | ⟨c0, n, v, -, he⟩
  · exact he.drives c sl
  · rcases drvhdWr_eq_next he with rfl | ⟨sl', d, hs, rfl⟩
    · exact hmap id (fun _ => .same) (.inl (by simp))
    · refine hmap (fun d => { d with driveHead := valueByte v })
        (fun d => .regs d.sectorCount d.sectorNumber d.cylLow d.cylHigh (valueByte v)) ?_
      have hd := State.driveAt_of_sel hs
      rw [State.driveAt_setDrive]
      split
      · rename_i hc
        obtain ⟨rfl, rfl⟩ := hc
        rw [State.driveAt_select] at hd
        exact .inr (by rw [hd]; rfl)
      · exact .inl (by simp)
  · rcases devctlWr_eq_next he with rfl | rfl | rfl
    · exact hmap id (fun _ => .same) (.inl (by simp))
    · refine hmap Drive.backendReset (fun _ => .reset) ?_
      rw [State.driveAt_resetChannel, State.driveAt_storeDevCtl]
      split <;> simp
    · refine hmap _ (fun _ => .ready) ?_
      rw [State.driveAt_srstRelease, State.driveAt_storeDevCtl]
      split <;> simp

/-- No instruction touches loads, inputs, given-back stores or the configuration. -/
theorem exec_static {i : Instr} {s t : State} (h : exec i s = .next t) : Static s t := by
  rcases exec_effect h with ⟨c0, -, he⟩ | ⟨c0, n, v, -, he⟩ | ⟨c0, n, v, -, he⟩
  · exact he.1
  · rcases drvhdWr_eq_next he with rfl | ⟨sl', d, hs, rfl⟩ <;> constructor <;> simp
  · rcases devctlWr_eq_next he with rfl | rfl | rfl
    · constructor <;> simp
    · obtain ⟨-, h1, h2, -, h4, -, -, -, h8, h9⟩ := State.frame_resetChannel (s.storeDevCtl c0 (valueByte v)) c0
      exact ⟨by simp [h1], by simp [h2], by simp [h4], by simp [h8], by simp [h9]⟩
    · constructor <;> simp [State.srstRelease]

end Sys2Proof.Machine
end

