-- ==== Sys2Proof/Laws/HostOps.lean ====
section
/-! SUPPORT. What a host operation or a load completion can do, said once (44_host_operations.md R231 to R240), and
what one step is. -/

namespace Sys2Proof.Machine

/-- What no host or loader step touches: the guest, its selections and device-control bytes, the inputs, the store
oracle, the configuration. -/
structure GuestStatic (s t : State) : Prop where
  guestStalled : t.guestStalled = s.guestStalled
  reads : t.reads = s.reads
  inputs : t.inputs = s.inputs
  answers : t.answers = s.answers
  draws : t.draws = s.draws
  cfg : t.cfg = s.cfg
  devCtl : ∀ c, (t.chan c).devCtl = (s.chan c).devCtl
  selected : ∀ c, (t.chan c).primarySelected = (s.chan c).primarySelected

theorem GuestStatic.refl (s : State) : GuestStatic s s := by constructor <;> simp

theorem GuestStatic.trans {s t u : State} (h : GuestStatic s t) (h' : GuestStatic t u) : GuestStatic s u :=
  ⟨h'.1.trans h.1, h'.2.trans h.2, h'.3.trans h.3, h'.4.trans h.4, h'.5.trans h.5, h'.6.trans h.6,
    fun c => (h'.7 c).trans (h.7 c), fun c => (h'.8 c).trans (h.8 c)⟩

theorem guestStatic_detachSlot (c : Chan) (k : Kind) (sl : Slot) (s : State) :
    GuestStatic s (detachSlot c k sl s) := by
  unfold detachSlot
  split
  · exact .refl s
  · split
    · constructor <;> (try intro c') <;> cases c <;> (try cases c') <;> cases sl <;>
        simp [State.setSlot, State.setChan, State.chan, Channel.setSlot, State.release] <;> split <;> rfl
    · exact .refl s

/-- Everything an attach can do (44_host_operations.md R231, R242). -/
theorem hostAttach_eq_next {c : Chan} {k : Kind} {img : Option Image} {s t : State}
    (h : hostAttach c k img s = .next t) :
    ((s.chan c).freeSlot = none ∧ t = s.emit (.attachChannelFull c)) ∨
    ∃ sl, (s.chan c).freeSlot = some sl ∧ (∀ x, img = some x → admittedImage k x = true) ∧
      t = s.setDrive c sl (attachedDrive s.cfg k img) := by
  unfold hostAttach at h
  split at h
  · exact .inl ⟨‹_›, (next_inj h).symm⟩
  · split at h
    · rename_i ha
      refine .inr ⟨_, ‹_›, ?_, (next_inj h).symm⟩
      rintro x rfl
      simpa using ha
    · cases h

/-- Everything a load start can do (44_host_operations.md R235). -/
theorem hostLoadImage_eq_next {c : Chan} {sl : Slot} {src : Nat} {s t : State}
    (h : hostLoadImage c sl src s = .next t) :
    (s.driveAt c sl = none ∧ t = s.emit (.loadNoDrive c sl)) ∨
    ∃ d, s.driveAt c sl = some d ∧
      t = { (s.release d.media).setDrive c sl { d with media := .loading } with
        loads := s.loads ++ [⟨s.nextLoader, c, sl, src⟩]
        nextLoader := s.nextLoader + 1 } := by
  unfold hostLoadImage at h
  split at h
  · exact .inl ⟨‹_›, (next_inj h).symm⟩
  · exact .inr ⟨_, ‹_›, (next_inj h).symm⟩

/-- The state once a loader agent has gone (44_host_operations.md R239). -/
def State.dropLoader (s : State) (loader : Nat) : State :=
  { s with loads := s.loads.filter fun x => x.loader != loader }

/-- Everything a load completion can do (44_host_operations.md R236 to R239, R242). -/
theorem loadDone_eq_next {loader : Nat} {ans : LoadAnswer} {s t : State} (h : loadDone loader ans s = .next t) :
    (s.loads.find? (fun l => l.loader == loader) = none ∧ t = s) ∨
    ∃ l, s.loads.find? (fun l => l.loader == loader) = some l ∧
      ((s.driveAt l.chan l.slot = none ∧ t = s.dropLoader loader) ∨
      ∃ d, s.driveAt l.chan l.slot = some d ∧
        ((∃ img d', ans = .ok img ∧ admittedImage d.kind img = true ∧
            ((d.kind = .hd ∧ d' = { d with media := .attached (Memory.ofImage img) }) ∨
              (d.kind = .atapi ∧ d' = { d with media := .attached (Memory.ofImage img) }.cdLoadStage s.cfg)) ∧
            t = ((s.dropLoader loader).release d.media).setDrive l.chan l.slot d') ∨
          (ans = .failed ∧
            t = (((s.dropLoader loader).release d.media).setDrive l.chan l.slot
              { d with media := .unattached }).emit (.loadFailed l.chan l.slot)))) := by
  unfold loadDone at h
  split at h
  · exact .inl ⟨‹_›, (next_inj h).symm⟩
  · rename_i l hl
    refine .inr ⟨l, hl, ?_⟩
    have hd : ({ s with loads := s.loads.filter fun x => x.loader != loader } : State).driveAt l.chan l.slot =
        s.driveAt l.chan l.slot := by
      cases l.chan <;> rfl
    simp only [hd] at h
    split at h
    · exact .inl ⟨‹_›, (next_inj h).symm⟩
    · rename_i d hd
      refine .inr ⟨d, hd, ?_⟩
      split at h
      · rename_i img
        refine .inl ?_
        unfold loadSucceeds at h
        split at h
        · rename_i ha
          dsimp only at h
          split at h
          · exact ⟨img, _, rfl, ha, .inl ⟨‹_›, rfl⟩, (next_inj h).symm⟩
          · exact ⟨img, _, rfl, ha, .inr ⟨‹_›, rfl⟩, (next_inj h).symm⟩
        · cases h
      · exact .inr ⟨rfl, (next_inj h).symm⟩

theorem guestStatic_release (s : State) (m : Media) : GuestStatic s (s.release m) := by
  unfold State.release
  split <;> constructor <;> (try intro c; cases c) <;> rfl

theorem guestStatic_setDrive (s : State) (c : Chan) (sl : Slot) (d : Drive) : GuestStatic s (s.setDrive c sl d) := by
  constructor <;> simp

theorem guestStatic_emit (s : State) (e : Event) : GuestStatic s (s.emit e) := by constructor <;> simp

theorem guestStatic_dropLoader (s : State) (loader : Nat) : GuestStatic s (s.dropLoader loader) := by
  constructor <;> (try intro c; cases c) <;> rfl

/-- No host operation and no load completion touches the guest's side (44_host_operations.md R230). -/
theorem perform_guestStatic {run : Instr → State → Result} {inp : Input} {s t : State} (hn : ∀ a, inp ≠ .guest a)
    (h : perform run inp s = .next t) : GuestStatic s t := by
  cases inp with
  | guest a => exact absurd rfl (hn a)
  | attach c k img =>
    rcases hostAttach_eq_next h with ⟨-, rfl⟩ | ⟨sl, -, -, rfl⟩
    · exact guestStatic_emit s _
    · exact guestStatic_setDrive s _ _ _
  | detachAll c k =>
    cases next_inj h
    exact (guestStatic_detachSlot c k .master s).trans (guestStatic_detachSlot c k .slave _)
  | resetChannel c =>
    cases next_inj h
    obtain ⟨h0, -, -, h3, h4, h5, h6, h7, -, h9⟩ := State.frame_resetChannel s c
    exact ⟨h3, h7, h4, h5, h6, h9, fun c' => (h0 c').1, fun c' => (h0 c').2⟩
  | loadImage c sl src =>
    rcases hostLoadImage_eq_next h with ⟨-, rfl⟩ | ⟨d, -, rfl⟩
    · exact guestStatic_emit s _
    · have := (guestStatic_release s d.media).trans
        (guestStatic_setDrive (s.release d.media) c sl { d with media := .loading })
      refine ⟨this.1, this.2, this.3, this.4, this.5, this.6, fun c' => ?_, fun c' => ?_⟩
      · rw [← this.7 c']; cases c' <;> rfl
      · rw [← this.8 c']; cases c' <;> rfl
  | loadDone l ans =>
    rcases loadDone_eq_next h with ⟨-, rfl⟩ | ⟨l', -, ⟨-, rfl⟩ | ⟨d, -, ⟨img, d', -, -, -, rfl⟩ | ⟨-, rfl⟩⟩⟩
    · exact .refl _
    · exact guestStatic_dropLoader s l
    · exact ((guestStatic_dropLoader s l).trans (guestStatic_release _ _)).trans (guestStatic_setDrive _ _ _ _)
    · exact (((guestStatic_dropLoader s l).trans (guestStatic_release _ _)).trans
        (guestStatic_setDrive _ _ _ _)).trans (guestStatic_emit _ _)

/-- Everything a step can do: nothing with no enabled input, else the next input (20_memory.md R61). -/
theorem step_eq_next {s t : State} (h : step s = .next t) :
    (nextInput s.guestStalled s.inputs = none ∧ t = s) ∨
    ∃ inp rest, nextInput s.guestStalled s.inputs = some (inp, rest) ∧
      perform exec inp { s with inputs := rest } = .next t := by
  unfold step at h
  split at h
  · exact .inl ⟨‹_›, (next_inj h).symm⟩
  · exact .inr ⟨_, _, ‹_›, h⟩

end Sys2Proof.Machine
end

