-- ==== Sys2Proof/Laws/PerInstr.lean ====
section
/-! SUPPORT. Laws for every instruction, one lemma per constructor. `EncodeLength`: an instruction is encoded in the
number of bytes its format has (30_encoding.md R70, R74, R75; the layout of an access is the model's, log 4): four for a
read, eight for a write, one for a command byte, twelve for a packet. -/

namespace Sys2Proof.Laws.EncodeLength

/-- The bytes of an instruction are as many as its format has. -/
def Statement (i : Instr) : Prop :=
  match i.format with
  | .port => (encode i).length = 4 ∨ (encode i).length = 8
  | .ataCmd _ _ => (encode i).length = 1
  | .atapiPkt _ => (encode i).length = 12

theorem dataRd (c : Chan) (n : Nat) : Statement (.dataRd c n) := .inl rfl
theorem dataWr (c : Chan) (n : Nat) (v : Dword) : Statement (.dataWr c n v) := .inr rfl
theorem errorRd (c : Chan) (n : Nat) : Statement (.errorRd c n) := .inl rfl
theorem precompWr (c : Chan) (n : Nat) (v : Dword) : Statement (.precompWr c n v) := .inr rfl
theorem seccntRd (c : Chan) (n : Nat) : Statement (.seccntRd c n) := .inl rfl
theorem seccntWr (c : Chan) (n : Nat) (v : Dword) : Statement (.seccntWr c n v) := .inr rfl
theorem secnumRd (c : Chan) (n : Nat) : Statement (.secnumRd c n) := .inl rfl
theorem secnumWr (c : Chan) (n : Nat) (v : Dword) : Statement (.secnumWr c n v) := .inr rfl
theorem cylloRd (c : Chan) (n : Nat) : Statement (.cylloRd c n) := .inl rfl
theorem cylloWr (c : Chan) (n : Nat) (v : Dword) : Statement (.cylloWr c n v) := .inr rfl
theorem cylhiRd (c : Chan) (n : Nat) : Statement (.cylhiRd c n) := .inl rfl
theorem cylhiWr (c : Chan) (n : Nat) (v : Dword) : Statement (.cylhiWr c n v) := .inr rfl
theorem drvhdRd (c : Chan) (n : Nat) : Statement (.drvhdRd c n) := .inl rfl
theorem drvhdWr (c : Chan) (n : Nat) (v : Dword) : Statement (.drvhdWr c n v) := .inr rfl
theorem statusRd (c : Chan) (n : Nat) : Statement (.statusRd c n) := .inl rfl
theorem commandWr (c : Chan) (n : Nat) (v : Dword) : Statement (.commandWr c n v) := .inr rfl
theorem devctlRd (c : Chan) (n : Nat) : Statement (.devctlRd c n) := .inl rfl
theorem devctlWr (c : Chan) (n : Nat) (v : Dword) : Statement (.devctlWr c n v) := .inr rfl
theorem unmappedRd (p : BitVec 16) (n : Nat) : Statement (.unmappedRd p n) := .inl rfl
theorem unmappedWr (p : BitVec 16) (n : Nat) (v : Dword) : Statement (.unmappedWr p n v) := .inr rfl
theorem readSectors (c : Chan) : Statement (.readSectors c) := rfl
theorem writeSectors (c : Chan) : Statement (.writeSectors c) := rfl
theorem identifyDevice (c : Chan) : Statement (.identifyDevice c) := rfl
theorem hdAbortOther (c : Chan) (op : Byte) : Statement (.hdAbortOther c op) := rfl
theorem packet (c : Chan) : Statement (.packet c) := rfl
theorem identifyPacketDevice (c : Chan) : Statement (.identifyPacketDevice c) := rfl
theorem atapiAbortOther (c : Chan) (op : Byte) : Statement (.atapiAbortOther c op) := rfl
theorem inquiry (c : Chan) : Statement (.inquiry c) := rfl
theorem read10 (c : Chan) (lba : Dword) (n : BitVec 16) : Statement (.read10 c lba n) := rfl
theorem read12 (c : Chan) (lba : Dword) (n : BitVec 16) : Statement (.read12 c lba n) := rfl
theorem pktAbortOther (c : Chan) (op : Byte) : Statement (.pktAbortOther c op) := rfl

end Sys2Proof.Laws.EncodeLength
end

