-- ==== Sys2Proof/Tests/Slice0.lean ====
section
/-! SUPPORT. Tests. The expected values are those of 95_test_vectors.md (L1, L2, cited in the comments) or read off the
opcode table and its rules by hand. `witness_…` theorems meet all the hypotheses of the obligation they are named after. -/

namespace Sys2Proof.Tests

open Machine

/-! ### Small states -/

/-- A configuration with known contents in place of the OPEN ones. -/
def cfg0 : Config :=
  { Config.standard with
    hdIdentify := Vector.replicate 256 0x1D00
    cdIdentify := Vector.replicate 256 0x1D01
    inquiryData := Vector.replicate 36 0x49
    hdGeometry := ⟨0, 0, 0⟩ }

/-- A hard disk with no store, status 0x40. -/
def hd0 : Drive := (newDrive cfg0 .hd .unattached).hdReset

/-- An optical drive with no image, status 0x50, cylinder 0xEB14. -/
def cd0 : Drive := attachedDrive cfg0 .atapi none

/-- Power-on with the known configuration, and drives in the Primary slots. -/
def machine (m sl : Option Drive) : State :=
  { State.reset with primary := { Channel.reset with master := m, slave := sl }, cfg := cfg0 }

/-- The next state of an outcome, if it is one. -/
def nextOf (o : Result) : Option State :=
  match o with
  | .next t => some t
  | .fault _ => none
  | .refused _ => none

/-- The fault of an outcome, if it is one. -/
def faultOf (o : Result) : Option Fault :=
  match o with
  | .next _ => none
  | .fault f => some f
  | .refused _ => none

/-- A view of the Primary master after an instruction. -/
def after {α : Type} (i : Instr) (s : State) (f : Drive → α) : Option α :=
  (nextOf (exec i s)).bind fun t => t.primary.master.map f

/-- `drive{status, error, cyl, len(buf), cur}`, as 95_test_vectors.md L3 sums a drive up. -/
structure Summary where
  status : Byte
  error  : Byte
  cyl    : Word
  len    : Nat
  cur    : Nat
  deriving DecidableEq, Repr

/-- The summary of a drive. -/
def summary (d : Drive) : Summary := ⟨d.status, d.error, d.cyl, d.buf.length, d.cur⟩

/-- The newest read result of an instruction. -/
def readOf (i : Instr) (s : State) : Option Dword := (nextOf (exec i s)).bind fun t => t.reads.head?

/-! ### Well-formedness: an ill-formed term for each check -/

theorem test_wellFormed_rejects_sizes :
    (Instr.dataRd .primary 3).wellFormed = false ∧ (Instr.dataRd .primary 0).wellFormed = false ∧
    (Instr.commandWr .secondary 8 0).wellFormed = false ∧ (Instr.unmappedRd 0x3F7 3).wellFormed = false ∧
    (Instr.unmappedWr 0x3F7 0 0).wellFormed = false := by decide

theorem test_wellFormed_rejects_mapped_ports :
    (Instr.unmappedRd 0x1F7 1).wellFormed = false ∧ (Instr.unmappedWr 0x170 1 0).wellFormed = false ∧
    (Instr.unmappedRd 0x376 1).wellFormed = false ∧ (Instr.unmappedWr 0x3F6 1 0).wellFormed = false := by decide

theorem test_wellFormed_rejects_bytes_with_rows_of_their_own :
    (Instr.hdAbortOther .primary 0x20).wellFormed = false ∧ (Instr.hdAbortOther .primary 0x30).wellFormed = false ∧
    (Instr.hdAbortOther .primary 0xEC).wellFormed = false ∧ (Instr.atapiAbortOther .primary 0xA0).wellFormed = false ∧
    (Instr.atapiAbortOther .primary 0xA1).wellFormed = false ∧ (Instr.pktAbortOther .primary 0x12).wellFormed = false ∧
    (Instr.pktAbortOther .primary 0x28).wellFormed = false ∧
    (Instr.pktAbortOther .primary 0xA8).wellFormed = false := by decide

theorem test_wellFormed_accepts :
    (Instr.dataRd .primary 4).wellFormed = true ∧ (Instr.unmappedRd 0x8170 1).wellFormed = true ∧
    (Instr.hdAbortOther .primary 0xA0).wellFormed = true ∧ (Instr.atapiAbortOther .primary 0x20).wellFormed = true ∧
    (Instr.pktAbortOther .primary 0x25).wellFormed = true := by decide

/-! ### Decoding: words written out bit by bit from 30_encoding.md R70 to R78 and the opcode table -/

/-- Task-file reads: bit 16 = 0, bits 15:8 = 0x01, bit 7 the channel, bits 6:0 = 0x70 + offset. -/
theorem test_decode_reads :
    decodeTableWord 24 0b00000000000000000111110000 = some (.dataRd .primary 1) ∧
    decodeTableWord 24 0b00000000000000000101110000 = some (.dataRd .secondary 1) ∧
    decodeTableWord 24 0b00000000000000000101110001 = some (.errorRd .secondary 1) ∧
    decodeTableWord 24 0b00000000000000000111110010 = some (.seccntRd .primary 1) ∧
    decodeTableWord 24 0b00000000000000000101110011 = some (.secnumRd .secondary 1) ∧
    decodeTableWord 24 0b00000000000000000111110100 = some (.cylloRd .primary 1) ∧
    decodeTableWord 24 0b00000000000000000101110101 = some (.cylhiRd .secondary 1) ∧
    decodeTableWord 24 0b00000000000000000111110110 = some (.drvhdRd .primary 1) ∧
    decodeTableWord 24 0b00000000000000000111110111 = some (.statusRd .primary 1) := by decide

/-- Task-file writes: as the reads, with bit 16 = 1. -/
theorem test_decode_writes :
    decodeTableWord 24 0b00000000010000000101110000 = some (.dataWr .secondary 1 0) ∧
    decodeTableWord 24 0b00000000010000000111110001 = some (.precompWr .primary 1 0) ∧
    decodeTableWord 24 0b00000000010000000101110010 = some (.seccntWr .secondary 1 0) ∧
    decodeTableWord 24 0b00000000010000000111110011 = some (.secnumWr .primary 1 0) ∧
    decodeTableWord 24 0b00000000010000000101110100 = some (.cylloWr .secondary 1 0) ∧
    decodeTableWord 24 0b00000000010000000111110101 = some (.cylhiWr .primary 1 0) ∧
    decodeTableWord 24 0b00000000010000000101110110 = some (.drvhdWr .secondary 1 0) ∧
    decodeTableWord 24 0b00000000010000000101110111 = some (.commandWr .secondary 1 0) := by decide

/-- The control port: bits 15:8 = 0x03, bits 6:0 = 0x76. -/
theorem test_decode_control :
    decodeTableWord 24 0b00000000000000001111110110 = some (.devctlRd .primary 1) ∧
    decodeTableWord 24 0b00000000010000001101110110 = some (.devctlWr .secondary 1 0) := by decide

/-- L2.1: the ports outside the map. -/
theorem test_decode_unmapped :
    decodeTableWord 24 0x003F7 = some (.unmappedRd 0x3F7 1) ∧ decodeTableWord 24 0x103F7 = some (.unmappedWr 0x3F7 1 0) ∧
    decodeTableWord 24 0x001F8 = some (.unmappedRd 0x1F8 1) ∧ decodeTableWord 24 0x003F5 = some (.unmappedRd 0x3F5 1) ∧
    decodeTableWord 24 0x1016F = some (.unmappedWr 0x16F 1 0) ∧
    decodeTableWord 24 0x08170 = some (.unmappedRd 0x8170 1) := by decide

/-- Command bytes (30_encoding.md R74). -/
theorem test_decode_commands :
    decode (.ataCmd .hd .primary) [0b00100000] = .ok (.readSectors .primary, []) ∧
    decode (.ataCmd .hd .secondary) [0b00110000] = .ok (.writeSectors .secondary, []) ∧
    decode (.ataCmd .hd .primary) [0b11101100] = .ok (.identifyDevice .primary, []) ∧
    decode (.ataCmd .hd .primary) [0b10010001] = .ok (.hdAbortOther .primary 0x91, []) ∧
    decode (.ataCmd .hd .primary) [0xA0] = .ok (.hdAbortOther .primary 0xA0, []) ∧
    decode (.ataCmd .atapi .primary) [0b10100000] = .ok (.packet .primary, []) ∧
    decode (.ataCmd .atapi .secondary) [0b10100001] = .ok (.identifyPacketDevice .secondary, []) ∧
    decode (.ataCmd .atapi .primary) [0x20] = .ok (.atapiAbortOther .primary 0x20, []) := by decide

/-- Packets (30_encoding.md R75 to R78; L2.7). -/
theorem test_decode_packets :
    decode (.atapiPkt .primary) [0x12, 0, 0, 0, 0x24, 0, 0, 0, 0, 0, 0, 0] = .ok (.inquiry .primary, []) ∧
    decode (.atapiPkt .primary) [0x28, 0, 0x01, 0x02, 0x03, 0x04, 0, 0x05, 0x06, 0, 0, 0] =
      .ok (.read10 .primary 0x01020304 0x0506, []) ∧
    decode (.atapiPkt .secondary) [0xA8, 0, 0, 0, 0, 3, 0, 2, 0xFF, 0xFF, 0, 0] =
      .ok (.read12 .secondary 3 2, []) ∧
    decode (.atapiPkt .primary) [0x25, 0, 0, 0, 0, 0, 0, 0, 0, 0, 0, 0] = .ok (.pktAbortOther .primary 0x25, []) := by
  decide

theorem test_decode_rejects_by_name :
    decode .port [0xF0, 0x01, 0x02, 0x00] = .error .accessWordTooWide ∧
    decode .port [0xF0, 0x01, 0x00] = .error .truncated ∧
    decode .port [0xF0, 0x01, 0x01, 0x00, 0x00] = .error .truncated ∧
    decode (.ataCmd .hd .primary) [] = .error .truncated ∧
    decode (.atapiPkt .primary) [0x12, 0] = .error .truncated := by decide

/-! ### The port instructions (L2.1 to L2.5, L2.8, L2.11) -/

/-- L2.1: `read(0x1F7, 3)`. -/
theorem test_bad_size_faults : faultOf (exec (.statusRd .primary 3) (machine (some hd0) none)) = some .badAccessSize := by
  decide

/-- L2.1: `in32 0x1F0` moves one word. -/
theorem test_dataRd_one_word :
    readOf (.dataRd .primary 4) (machine (some (hd0.stage [0x1234, 0x5678])) none) = some 0x00001234 ∧
    after (.dataRd .primary 4) (machine (some (hd0.stage [0x1234, 0x5678])) none) (fun d => (d.cur, d.status)) =
      some (1, 0x40) := by decide

/-- L2.4: y = 2, the read at cursor 0 finishes early and leaves cylinder 2. -/
theorem test_dataRd_early_finish :
    after (.dataRd .primary 2)
      (machine (some { (hd0.stage [0x1111, 0x2222]) with status := 0x48, cylLow := 2 }) none) summary =
      some ⟨0x40, 0x00, 2, 2, 1⟩ := by decide

/-- L2.4, the GE predicate on a buffer of 3 words, y = 1: an early finish at 1 leaves 2·(3-1) = 4. -/
theorem test_dataRd_other_reading :
    after (.dataRd .primary 2)
      { machine (some { (hd0.stage [1, 2, 3]) with status := 0x48, cylLow := 1 }) none with
        cfg := { cfg0 with earlyFinish := .fromThreshold } } summary = some ⟨0x40, 0x00, 4, 3, 1⟩ := by decide

/-- L2.5: a write at cursor 3 replaces that word alone. -/
theorem test_dataWr_one_word :
    after (.dataWr .primary 2 0x1111AAAA)
      (machine (some { (hd0.stage [0, 0, 0, 0, 0]) with cur := 3, status := 0x48 }) none)
      (fun d => (d.buf, d.cur, d.status)) = some ([0, 0, 0, 0xAAAA, 0], 4, 0x48) := by decide

/-- L2.5: a write with no room is dropped. -/
theorem test_dataWr_dropped :
    after (.dataWr .primary 2 0x1234) (machine (some { (hd0.stage [7]) with cur := 1 }) none)
      (fun d => (d.buf, d.cur)) = some ([7], 1) := by decide

/-- L2.2 and R106: offset 1 reads the error register, zero-extended. -/
theorem test_errorRd : readOf (.errorRd .primary 4) (machine (some { hd0 with error := 0x84 }) none) = some 0x84 := by
  decide

/-- L2.3: `out8 0x1F1` changes nothing. -/
theorem test_precompWr :
    (nextOf (exec (.precompWr .primary 1 0xFF) (machine (some hd0) none))).map (fun t => (t.primary, t.events)) =
      some ((machine (some hd0) none).primary, []) := by decide

/-- L2.3: `out16 0x1F2, 0xABCD` sets sectorCount alone. -/
theorem test_seccntWr :
    after (.seccntWr .primary 2 0xABCD) (machine (some hd0) none) (fun d => (d.sectorCount, d.sectorNumber)) =
      some (0xCD, 0x00) := by decide

theorem test_seccntRd : readOf (.seccntRd .primary 1) (machine (some { hd0 with sectorCount := 5 }) none) = some 5 := by
  decide

theorem test_secnumWr :
    after (.secnumWr .primary 1 0x07) (machine (some hd0) none) (fun d => (d.sectorNumber, d.cyl)) = some (7, 0) := by
  decide

theorem test_secnumRd : readOf (.secnumRd .primary 1) (machine (some { hd0 with sectorNumber := 9 }) none) = some 9 := by
  decide

/-- L2.1: `out32 0x1F4, 0x12345678` sets cylLow = 0x78. -/
theorem test_cylloWr :
    after (.cylloWr .primary 4 0x12345678) (machine (some hd0) none) (fun d => (d.cylLow, d.cylHigh)) =
      some (0x78, 0x00) := by decide

theorem test_cylloRd : readOf (.cylloRd .primary 1) (machine none (some cd0)) = some 0x14 := by decide

/-- L2.3: cylLow 0x34, cylHigh 0x12 give the cylinder 0x1234. -/
theorem test_cylhiWr :
    after (.cylhiWr .primary 1 0x12) (machine (some { hd0 with cylLow := 0x34 }) none) (fun d => d.cyl) =
      some 0x1234 := by decide

theorem test_cylhiRd : readOf (.cylhiRd .primary 1) (machine none (some cd0)) = some 0xEB := by decide

theorem test_drvhdRd : readOf (.drvhdRd .primary 1) (machine (some { hd0 with driveHead := 0xA0 }) none) = some 0xA0 := by
  decide

/-- L2.2: only a master, `out8 0x1F6, 0xB0` deselects it and the payload is dropped. -/
theorem test_drvhdWr_drops :
    (nextOf (exec (.drvhdWr .primary 1 0xB0) (machine (some hd0) none))).map
      (fun t => (t.primary.primarySelected, t.primary.master)) = some (false, some hd0) := by decide

/-- L3.1 row 7: the slave gets the byte that selects it. -/
theorem test_drvhdWr_selects_first :
    (nextOf (exec (.drvhdWr .primary 1 0x10) (machine (some hd0) (some cd0)))).map
      (fun t => (t.primary.primarySelected, t.primary.slave.map Drive.driveHead)) = some (false, some 0x10) := by decide

/-- L2.2: the fallback to the slave; L2.11: the accounting event. -/
theorem test_statusRd_fallback :
    (nextOf (exec (.statusRd .primary 1) (machine none (some cd0)))).map (fun t => (t.reads, t.events)) =
      some ([0x50], [.account .atapi .primary 7 .read]) := by decide

theorem test_statusRd_no_drive :
    (nextOf (exec (.statusRd .primary 1)
      { machine (some hd0) none with primary := ⟨some hd0, none, 0, false⟩ })).map (fun t => (t.reads, t.events)) =
      some ([0], []) := by decide

/-- L2.2: `out8 0x1F7, 0xEC` on an empty channel. -/
theorem test_commandWr_no_drive :
    (nextOf (exec (.commandWr .primary 1 0xEC) (machine none none))).map (fun t => t.events) =
      some [.commandNoDrive .primary] := by decide

/-- L2.6: `cmd 0, 0x91`; L2.11: one accounting event. -/
theorem test_commandWr_abort :
    (nextOf (exec (.commandWr .primary 2 0x1291) (machine (some hd0) none))).map
      (fun t => (t.primary.master.map summary, t.events)) =
      some (some ⟨0x01, 0x04, 0, 0, 0⟩, [.account .hd .primary 7 .write]) := by decide

/-- L2.8: `in8 0x3F6`. -/
theorem test_devctlRd : readOf (.devctlRd .primary 1)
    { machine none none with primary := ⟨none, none, 0x06, true⟩ } = some 0x06 := by decide

/-- L2.8: `out16 0x3F6, 0x0104` resets; L1.6: the slave re-asserts its signature. -/
theorem test_devctlWr_reset :
    (nextOf (exec (.devctlWr .primary 2 0x0104)
      (machine (some { hd0 with cylLow := 5, status := 0x48 })
        (some { cd0 with cylLow := 0, cylHigh := 0, status := 0x01 })))).map
      (fun t => (t.primary.devCtl, t.primary.master.map summary, t.primary.slave.map summary)) =
      some (0x04, some ⟨0x40, 0x00, 0, 0, 0⟩, some ⟨0x50, 0x00, 0xEB14, 0, 0⟩) := by decide

/-- L2.8: the release after a failed command leaves 0x41 and the error. -/
theorem test_devctlWr_release :
    (nextOf (exec (.devctlWr .primary 1 0x00)
      { machine none none with primary := ⟨some { hd0 with status := 0x01, error := 0x04 }, none, 0x04, true⟩ })).map
      (fun t => t.primary.master.map fun d => (d.status, d.error)) = some (some (0x41, 0x04)) := by decide

/-- L2.1, R66: port 0x3F7. -/
theorem test_unmapped :
    readOf (.unmappedRd 0x3F7 1) (machine (some hd0) none) = some 0 ∧
    (nextOf (exec (.unmappedWr 0x3F7 1 0x55) (machine (some hd0) none))).map (fun t => t.primary) =
      some (machine (some hd0) none).primary := by decide

/-! ### The commands (L2.6, L2.7) -/

/-- A hard disk over a store of two sectors, whose byte 512 is 0x11 and byte 1023 is 0x22. -/
def disk : Drive := { hd0 with media := .attached ⟨1024, [(512, 0x11), (1023, 0x22)]⟩ }

/-- An optical drive over an image of one sector, whose byte 1 is 0x09. -/
def disc : Drive := { cd0 with media := .attached ⟨2048, [(1, 0x09)]⟩ }

/-- A machine whose next store access is answered so. -/
def answering (a : StoreAnswer) (s : State) : State := { s with answers := [a] }

set_option maxRecDepth 20000 in
/-- L2.6: the sector of cylinder 1, low byte first. -/
theorem test_readSectors :
    after (.readSectors .primary) (answering .ok (machine (some { disk with cylLow := 1 }) none))
      (fun d => (summary d, d.buf[0]?, d.buf[255]?)) =
      some (⟨0x48, 0x00, 1, 256, 0⟩, some 0x0011, some 0x2200) := by decide

/-- L2.6: the cylinder at the end of the store. -/
theorem test_readSectors_out_of_range :
    after (.readSectors .primary) (machine (some { disk with cylLow := 2 }) none) summary =
      some ⟨0x01, 0x10, 2, 0, 0⟩ := by decide

set_option maxRecDepth 20000 in
/-- L2.6: a write of 256 words to cylinder 1; byte 512 becomes 0x00, byte 1022 and 1023 hold the last word. -/
theorem test_writeSectors :
    after (.writeSectors .primary)
      (answering .ok (machine (some { disk with cylLow := 1, buf := List.replicate 255 0 ++ [0xBBAA] }) none))
      (fun d => (d.status, d.error, d.media)) =
      some (0x40, 0x00, .attached ⟨1024, [(1022, 0xAA), (1023, 0xBB)]⟩) := by decide

/-- L2.6: a write of an empty buffer aborts. -/
theorem test_writeSectors_no_buffer :
    after (.writeSectors .primary) (machine (some disk) none) summary = some ⟨0x01, 0x04, 0, 0, 0⟩ := by decide

set_option maxRecDepth 20000 in
/-- L2.6: IDENTIFY with no store. -/
theorem test_identifyDevice :
    after (.identifyDevice .primary) (machine (some hd0) none) (fun d => (summary d, d.buf[255]?)) =
      some (⟨0x48, 0x00, 0, 256, 0⟩, some 0x1D00) := by decide

theorem test_hdAbortOther :
    after (.hdAbortOther .primary 0x00) (machine (some hd0) none) summary = some ⟨0x01, 0x04, 0, 0, 0⟩ := by decide

set_option maxRecDepth 20000 in
/-- L2.7: `cmd 0, 0xA1`; the cylinder stays. -/
theorem test_identifyPacketDevice :
    after (.identifyPacketDevice .primary) (machine (some cd0) none) (fun d => (summary d, d.buf[0]?)) =
      some (⟨0x48, 0x00, 0xEB14, 256, 0⟩, some 0x1D01) := by decide

/-- L2.7: `cmd 0, 0xEC` on ATAPI. -/
theorem test_atapiAbortOther :
    after (.atapiAbortOther .primary 0xEC) (machine (some cd0) none) summary = some ⟨0x01, 0x04, 0xEB14, 0, 0⟩ := by
  decide

/-- L2.7: an INQUIRY packet whose cursor is at its end; the packet area keeps it. -/
theorem test_packet_inquiry :
    after (.packet .primary)
      (machine (some { (cd0.stage [0x0012, 0x0000, 0x0024, 0, 0, 0]) with cur := 6 }) none)
      (fun d => (summary d, d.packet[0], d.packet[4])) = some (⟨0x48, 0x00, 0xEB14, 18, 0⟩, 0x12, 0x24) := by decide

/-- L2.7: a PACKET of an empty buffer aborts. -/
theorem test_packet_empty :
    after (.packet .primary) (machine (some cd0) none) summary = some ⟨0x01, 0x04, 0xEB14, 0, 0⟩ := by decide

theorem test_inquiry :
    after (.inquiry .primary) (machine (some cd0) none) (fun d => (d.status, d.buf)) =
      some (0x48, List.replicate 18 0x4949) := by decide

set_option maxRecDepth 40000 in
/-- L1.11: a length field of 0 reads one sector; word 0 holds byte 1 in its high byte. -/
theorem test_read10_length_zero :
    after (.read10 .primary 0 0) (answering .ok (machine (some disc) none)) (fun d => (summary d, d.buf[0]?)) =
      some (⟨0x48, 0x00, 0xEB14, 1024, 0⟩, some 0x0900) := by decide

/-- L2.7: LBA 1 of a one-sector image. -/
theorem test_read10_past_end :
    after (.read10 .primary 1 1) (answering .ok (machine (some disc) none)) summary =
      some ⟨0x01, 0x40, 0xEB14, 0, 0⟩ := by decide

/-- L2.7: a stream I/O fault. -/
theorem test_read10_io_fault :
    after (.read10 .primary 0 1) (answering .ioFault (machine (some disc) none)) summary =
      some ⟨0x01, 0x80, 0xEB14, 0, 0⟩ := by decide

/-- L2.7: READ(12) with no image. -/
theorem test_read12_no_image :
    after (.read12 .primary 0 1) (machine (some cd0) none) summary = some ⟨0x01, 0x04, 0xEB14, 0, 0⟩ := by decide

/-- R270: a stall. -/
theorem test_read12_stall :
    (nextOf (exec (.read12 .primary 0 1) (answering .stall (machine (some disc) none)))).map
      (fun t => (t.guestStalled, t.primary.master)) = some (true, some disc) := by decide

theorem test_pktAbortOther :
    after (.pktAbortOther .primary 0x25) (machine (some cd0) none) summary = some ⟨0x01, 0x04, 0xEB14, 0, 0⟩ := by decide

/-! ### Words placed for the host (log 3) -/

/-- A DEVCTL_WR word of zeros is the next step; a command word gets a selected drive of its backend. -/
theorem test_withFetchWord :
    (nextOf (step ((machine none none).withFetchWord 24 0x103F6))).map (fun t => (t.inputs, t.primary.devCtl)) =
      some ([], 0x00) ∧
    (nextOf (step ((machine none none).withFetchWord 8 0x91))).map (fun t => t.primary.master.map Drive.status) =
      some (some 0x01) := by decide

/-! ### Host steps (L2.9) -/

/-- The state with one coming input. -/
def coming (i : Input) (s : State) : State := { s with inputs := [i] }

theorem test_attach :
    (nextOf (step (coming (.attach .primary .atapi none) (machine (some hd0) none)))).map
      (fun t => t.primary.slave.map summary) = some (some ⟨0x50, 0x00, 0xEB14, 0, 0⟩) ∧
    (nextOf (step (coming (.attach .primary .hd none) (machine (some hd0) (some cd0))))).map (fun t => t.events) =
      some [.attachChannelFull .primary] := by decide

theorem test_attach_bad_store :
    faultOf (step (coming (.attach .primary .hd (some ⟨1000, []⟩)) (machine none none))) = some .hdStoreLength := by
  decide

theorem test_detach :
    (nextOf (step (coming (.detachAll .primary .hd) (machine (some hd0) (some cd0))))).map
      (fun t => (t.primary.master, t.primary.slave)) = some (none, some cd0) := by decide

set_option maxRecDepth 20000 in
theorem test_loadDone :
    (nextOf (step (coming (.loadDone 4 (.ok ⟨2048, []⟩))
      { machine (some { cd0 with media := .loading }) none with loads := [⟨4, .primary, .master, 0⟩] }))).map
      (fun t => (t.loads, t.primary.master.map fun d => (summary d, d.media))) =
      some ([], some (⟨0x48, 0x00, 0xEB14, 256, 0⟩, .attached ⟨2048, []⟩)) := by decide

/-- R234, L2.9: a reset of an empty channel. -/
theorem test_reset_no_drive :
    (nextOf (step (coming (.resetChannel .secondary) (machine (some hd0) none)))).map (fun t => t.events) =
      some [.resetNoDrive .secondary] := by decide

/-- R235, L2.9: a load start. -/
theorem test_loadImage :
    (nextOf (step (coming (.loadImage .primary .master 7) (machine (some cd0) none)))).map
      (fun t => (t.loads, t.primary.master.map Drive.media)) =
      some ([⟨0, .primary, .master, 7⟩], some .loading) := by decide

/-! ### Witnesses: hypotheses that can all be met -/

/-- A guest access. -/
def access (dir : Dir) (port : BitVec 16) (value : Dword) : Access := ⟨dir, port, 1, value⟩

/-- A pending load of the Primary master. -/
def load0 : Load := ⟨4, .primary, .master, 0⟩

/-- A drive with a store or image that is being loaded. -/
def loadingMachine (d : Drive) : State :=
  { machine (some { d with media := .loading }) none with loads := [load0], nextLoader := 5 }

/-- The disk with a full buffer and the cylinder of its last sector. -/
def fullDisk : Drive := { disk with cylLow := 1, buf := List.replicate 256 0xAAAA }

theorem hd0_inv : hd0.Inv cfg0.errBits := by
  refine ⟨by decide, by decide, by decide, by decide, by decide, .inl rfl, ?_⟩
  intro m h
  cases h

theorem disk_inv : disk.Inv cfg0.errBits := by
  refine ⟨by decide, by decide, by decide, by decide, by decide, .inl rfl, ?_⟩
  intro m h
  cases h
  decide

theorem machine_inv (d : Drive) (h : d.Inv cfg0.errBits) : (machine (some d) none).DriveInv := by
  refine ⟨rfl, ?_, ?_⟩
  · intro c sl d' hd
    cases c <;> cases sl <;> cases hd
    exact h
  · intro m hm
    cases hm

/-- The drive invariant does not look at the store answers to come. -/
theorem answering_inv {s : State} (a : StoreAnswer) (h : s.DriveInv) : (answering a s).DriveInv :=
  ⟨h.construct, (fun c sl d hd => h.drives c sl d (by cases c <;> exact hd)), h.released⟩

theorem witness_DecodeEncodeRoundTrip :
    (Instr.dataWr .secondary 4 0x12345678).wellFormed = true ∧ (Instr.unmappedRd 0x178 1).wellFormed = true ∧
    (Instr.read12 .primary 0xFFFFFFFF 0xFFFF).wellFormed = true := by decide

theorem witness_EveryAccessEncodesBack :
    admittedSize (access .read 0x177 0).size = true ∧ ((access .read 0x177 0).dir = .read → (access .read 0x177 0).value = 0) ∧
    admittedSize (access .write 0x16F 5).size = true ∧
    ((access .write 0x16F 5).dir = .read → (access .write 0x16F 5).value = 0) := by decide

theorem witness_PortDecodeFollowsOpcodeTable :
    (decodeAccess (access .read 0x170 0)).tableMatch? = some 0x00170 ∧
    (decodeAccess (access .write 0x1F7 0)).tableMatch? = some 0x10177 ∧
    (decodeAccess (access .write 0x3F6 0)).tableMatch? = some 0x10376 ∧
    (decodeAccess (access .read 0x16F 0)).tableMatch? = none ∧
    (decodeAccess (access .write 0x178 0)).tableMatch? = none ∧
    (decodeAccess (access .read 0x1F0 0)).channel? = some .primary ∧
    (decodeAccess (access .read 0x376 0)).channel? = some .secondary := by decide

theorem witness_StepRunsTheDecodedAccess :
    (machine none none).guestStalled = false ∧
    accessOfBytes [0xF7, 0x01, 0x00, 0x00] = .ok (access .read 0x1F7 0, []) ∧
    decode .port [0xF7, 0x01, 0x00, 0x00] = .ok (.statusRd .primary 1, []) := by decide

theorem witness_CommandWriteRunsTheDecodedCommand :
    admittedSize 1 = true ∧ (machine none none).sel .primary = none ∧
    (machine (some hd0) none).sel .primary = some (.master, hd0) := by decide

theorem witness_PacketRunsTheDecodedPacket :
    (machine (some (cd0.stage [0x0012])) none).sel .primary = some (.master, cd0.stage [0x0012]) ∧
    cd0.kind = .atapi ∧
    ∀ i : Fin 12, (#v[0x12, 0, 0, 0, 0, 0, 0, 0, 0, 0, 0, 0] : Vector Byte 12)[i] =
      ((cd0.stage [0x0012]).buf.getD (i.val / 2) 0).extractLsb' (8 * (i.val % 2)) 8 := by decide

/-- A stalled guest with an access of its own, and a host reset, to come. -/
def stalledMachine : State :=
  { machine none none with guestStalled := true, inputs := [.guest (access .read 0x1F7 0), .resetChannel .primary] }

theorem witness_StalledGuestHangs_step : stalledMachine.guestStalled = true ∧ ∃ t, step stalledMachine = .next t :=
  ⟨rfl, _, rfl⟩

/-- A stalled guest with nothing but an access of its own to come. -/
def stalledAlone : State := { stalledMachine with inputs := [.guest (access .read 0x1F7 0)] }

theorem witness_StalledGuestHangs_only_guest :
    stalledAlone.guestStalled = true ∧ stalledAlone.inputs.all Input.isGuest = true ∧ stalledAlone.inputs ≠ [] := by
  decide

theorem witness_StalledGuestHangs_host :
    stalledMachine.guestStalled = true ∧ [Input.guest (access .read 0x1F7 0)].all Input.isGuest = true ∧
    (Input.resetChannel .primary).isGuest = false ∧
    stalledMachine.inputs = [.guest (access .read 0x1F7 0)] ++ .resetChannel .primary :: [] := by decide

theorem witness_StepKeepsDriveInvariant :
    (machine (some disk) none).DriveInv ∧ ∃ t, step (machine (some disk) none) = .next t :=
  ⟨machine_inv disk disk_inv, _, rfl⟩

theorem witness_StepKeepsLoadInvariant :
    (loadingMachine cd0).LoadInv ∧ ∃ t, step (loadingMachine cd0) = .next t := by
  refine ⟨⟨by decide, ?_, by decide, by decide⟩, _, rfl⟩
  intro c sl d hd hm
  cases c <;> cases sl <;> cases hd
  exact ⟨load0, .head [], rfl, rfl⟩

theorem witness_StepKeepsConfiguration : ∃ t, step (machine (some hd0) none) = .next t := ⟨_, rfl⟩

theorem witness_OnlyDeviceControlWritesChangeDevCtl :
    ∃ t, step (coming (.guest (access .write 0x3F6 0x06)) (machine none none)) = .next t ∧
      (t.chan .primary).devCtl ≠ ((coming (.guest (access .write 0x3F6 0x06)) (machine none none)).chan .primary).devCtl :=
  ⟨_, rfl, by decide⟩

theorem witness_OnlyDriveHeadWritesChangeSelection :
    ∃ t, step (coming (.guest (access .write 0x1F6 0x10)) (machine none none)) = .next t ∧
      (t.chan .primary).primarySelected ≠
        ((coming (.guest (access .write 0x1F6 0x10)) (machine none none)).chan .primary).primarySelected :=
  ⟨_, rfl, by decide⟩

theorem witness_ChannelsDoNotInterfere :
    (Instr.readSectors .primary).channel? = some .primary ∧ (Chan.secondary ≠ .primary) ∧
    (Instr.devctlWr .secondary 1 4).channel? = some .secondary ∧ (Chan.primary ≠ .secondary) := by decide

/-- One state meets all the hypotheses of the clauses on any access, with the answer Ok. -/
theorem witness_GuestAccessesComplete :
    admittedSize (access .write 0x1F7 0x20).size = true ∧
    (answering .ok (machine (some disk) none)).nextAnswer ≠ .ioFault ∧
    (answering .ok (machine (some disk) none)).nextAnswer = .ok ∧
    (answering .ok (machine (some disk) none)).DriveInv :=
  ⟨rfl, by decide, rfl, answering_inv .ok (machine_inv disk disk_inv)⟩

/-- The first clause's other answer: a stall. -/
theorem witness_GuestAccessesComplete_stall :
    admittedSize (access .write 0x1F7 0x20).size = true ∧
    (answering .stall (machine (some disk) none)).nextAnswer ≠ .ioFault ∧
    (answering .stall (machine (some disk) none)).DriveInv :=
  ⟨rfl, by decide, answering_inv .stall (machine_inv disk disk_inv)⟩

theorem witness_GuestAccessesComplete_no_command :
    admittedSize (access .read 0x1F7 0).size = true ∧
    ∀ c n v, decodeAccess (access .read 0x1F7 0) ≠ .commandWr c n v :=
  ⟨rfl, (fun c n v h => by cases h)⟩

theorem witness_GuestAccessesComplete_optical :
    admittedSize (access .write 0x1F7 0xA0).size = true ∧
    decodeAccess (access .write 0x1F7 0xA0) = .commandWr .primary 1 0xA0 ∧
    ∀ sl d, (answering .ioFault (machine (some disc) none)).sel .primary = some (sl, d) → d.kind = .atapi := by
  refine ⟨rfl, rfl, fun sl d h => ?_⟩
  cases h
  rfl

theorem witness_InadmissibleSizeFaults :
    ∃ n, (Instr.devctlRd .primary 3).accessSize? = some n ∧ n ≠ 1 ∧ n ≠ 2 ∧ n ≠ 4 := ⟨3, by decide⟩

set_option maxRecDepth 20000 in
theorem witness_OnlyWriteSectorsChangesStores :
    (∃ t, exec (.commandWr .primary 1 0x20) (answering .ok (machine (some disk) none)) = .next t) ∧
    (∀ c, Instr.commandWr .primary 1 0x20 ≠ .writeSectors c) ∧
    (∀ c n v, Instr.commandWr .primary 1 0x20 = .commandWr c n v → v.extractLsb' 0 8 ≠ (0x30 : Byte)) := by
  refine ⟨⟨_, rfl⟩, (fun c h => by cases h), fun c n v h => ?_⟩
  cases h
  decide

theorem witness_AccountingEvents :
    (∃ t, exec (.dataRd .primary 2) (machine (some hd0) none) = .next t) ∧
    (Instr.dataRd .primary 2).accessSize? = some 2 ∧ (∀ c n v, Instr.dataRd .primary 2 ≠ .commandWr c n v) ∧
    (∀ c n v, Instr.dataRd .primary 2 ≠ .devctlWr c n v) :=
  ⟨⟨_, rfl⟩, rfl, (fun c n v h => by cases h), (fun c n v h => by cases h)⟩

theorem witness_RegisterAccessFrame :
    (∃ t, exec (.drvhdWr .primary 1 0xA0) (machine (some hd0) none) = .next t) ∧
    (Instr.drvhdWr .primary 1 0xA0).accessSize? = some 1 ∧ (∀ c n, Instr.drvhdWr .primary 1 0xA0 ≠ .dataRd c n) ∧
    (∀ c n v, Instr.drvhdWr .primary 1 0xA0 ≠ .dataWr c n v) ∧
    (∀ c n v, Instr.drvhdWr .primary 1 0xA0 ≠ .commandWr c n v) ∧
    (∀ c n v, Instr.drvhdWr .primary 1 0xA0 ≠ .devctlWr c n v) :=
  ⟨⟨_, rfl⟩, rfl, (fun c n h => by cases h), (fun c n v h => by cases h), (fun c n v h => by cases h),
    (fun c n v h => by cases h)⟩

/-- A disk whose last command failed. -/
def failedDisk : Drive := hd0.fail cfg0 .aborted

theorem witness_ErrorsPersist :
    (∃ t, exec (.dataRd .primary 2) (machine (some failedDisk) none) = .next t) ∧
    (Instr.dataRd .primary 2).accessSize? = some 2 ∧ (∀ c n v, Instr.dataRd .primary 2 ≠ .commandWr c n v) ∧
    (∀ c n v, Instr.dataRd .primary 2 ≠ .devctlWr c n v) ∧
    (machine (some failedDisk) none).driveAt .primary .master = some failedDisk ∧ failedDisk.status = 0x01 ∧
    failedDisk.buf = [] :=
  ⟨⟨_, rfl⟩, rfl, (fun c n v h => by cases h), (fun c n v h => by cases h), rfl, rfl, rfl⟩

theorem witness_RegisterReadsReturnTheRegister : admittedSize 1 = true ∧ admittedSize 2 = true ∧ admittedSize 4 = true := by
  decide

theorem witness_ErrorAndStatusReads :
    admittedSize 1 = true ∧ (machine none none).sel .primary = none ∧
    (machine none (some cd0)).sel .primary = some (.slave, cd0) := by decide

theorem witness_RegisterWritesReachTheSelectedDrive : admittedSize 2 = true := by decide

theorem witness_PrecompensationWriteIgnored : admittedSize 1 = true := by decide

theorem witness_UnmappedPortsReadZeroIgnoreWrites : admittedSize 4 = true := by decide

theorem witness_DriveHeadWriteSelectsFirst : admittedSize 1 = true := by decide

theorem witness_SelectionRoutesTheNextCommand :
    admittedSize 1 = true ∧ ((machine (some hd0) (some cd0)).chan .primary).master = some hd0 ∧
    ((machine (some hd0) (some cd0)).chan .primary).slave = some cd0 ∧ (0xA0 : Dword).getLsbD 4 = false ∧
    (0xB0 : Dword).getLsbD 4 = true := by decide

theorem witness_SelectionRoutesTheNextCommand_completes :
    ∃ t u, exec (.drvhdWr .primary 1 0xB0) (machine (some hd0) (some cd0)) = .next t ∧
      exec (.commandWr .primary 1 0xEC) t = .next u := ⟨_, _, rfl, rfl⟩

theorem witness_DataReadMovesOneWord :
    admittedSize 2 = true ∧ (machine (some (hd0.stage [7])) none).sel .primary = some (.master, hd0.stage [7]) ∧
    (hd0.stage [7]).cur < (hd0.stage [7]).buf.length := by decide

theorem witness_DataWriteMovesOneWord :
    admittedSize 4 = true ∧ (machine none (some (cd0.stage [7, 8]))).sel .primary = some (.slave, cd0.stage [7, 8]) ∧
    (cd0.stage [7, 8]).cur < (cd0.stage [7, 8]).buf.length := by decide

theorem witness_DataPortWithoutWordOrRoom :
    admittedSize 2 = true ∧ (machine (some hd0) none).sel .primary = some (.master, hd0) ∧ hd0.buf.length ≤ hd0.cur ∧
    (machine none none).sel .secondary = none := by decide

theorem witness_DrainReturnsTheBuffer :
    admittedSize 2 = true ∧ (machine (some (hd0.stage [7, 8])) none).sel .primary = some (.master, hd0.stage [7, 8]) ∧
    (hd0.stage [7, 8]).cur = 0 ∧ (hd0.stage [7, 8]).buf ≠ [] ∧ (hd0.stage [7, 8]).cylLow = 0x00 ∧
    (hd0.stage [7, 8]).cylHigh = 0x00 := by decide

theorem witness_DeviceControlReadReturnsTheStoredByte : admittedSize 1 = true := by decide

theorem witness_SrstAssertIsChannelReset :
    admittedSize 1 = true ∧ ((machine (some hd0) none).chan .primary).devCtl.getLsbD 2 = false ∧
    (0x04 : Dword).getLsbD 2 = true := by decide

/-- The SRST bit held. -/
def srstHeld : State := { machine none none with primary := ⟨some hd0, some cd0, 0x04, true⟩ }

theorem witness_SrstReleaseReadiesEveryDrive :
    admittedSize 1 = true ∧ (srstHeld.chan .primary).devCtl.getLsbD 2 = true ∧ (0xFB : Dword).getLsbD 2 = false := by
  decide

theorem witness_DeviceControlWriteWithoutEdge :
    admittedSize 1 = true ∧ (srstHeld.chan .primary).devCtl.getLsbD 2 = (0x06 : Dword).getLsbD 2 ∧
    ((machine none none).chan .primary).devCtl.getLsbD 2 = (0x02 : Dword).getLsbD 2 := by decide

theorem witness_ChannelResetResetsEveryDrive :
    ((machine none none).chan .primary).master = none ∧ ((machine none none).chan .primary).slave = none ∧
    ((machine none (some cd0)).chan .primary).slave ≠ none ∧ ((machine (some hd0) none).chan .primary).master ≠ none := by
  decide

theorem witness_CommandWriteCompletes :
    admittedSize 1 = true ∧ (machine (some hd0) none).sel .primary = some (.master, hd0) ∧ hd0.kind = .hd ∧
    (0xEC : Dword).extractLsb' 0 8 = (0xEC : Byte) ∧ (0x91 : Dword).extractLsb' 0 8 ≠ (0x20 : Byte) ∧
    (0x91 : Dword).extractLsb' 0 8 ≠ (0x30 : Byte) ∧ (0x91 : Dword).extractLsb' 0 8 ≠ (0xEC : Byte) ∧
    (machine (some cd0) none).sel .primary = some (.master, cd0) ∧ cd0.kind = .atapi ∧
    (0xA1 : Dword).extractLsb' 0 8 = (0xA1 : Byte) ∧ (0xEC : Dword).extractLsb' 0 8 ≠ (0xA0 : Byte) ∧
    (0xEC : Dword).extractLsb' 0 8 ≠ (0xA1 : Byte) := by decide

/-- The disk's store. -/
def diskStore : Memory := ⟨1024, [(512, 0x11), (1023, 0x22)]⟩

/-- The disk at its last sector. -/
def lastSector : Drive := { disk with cylLow := 1 }

theorem witness_ReadSectorsStagesTheSector :
    (answering .ok (machine (some lastSector) none)).sel .primary = some (.master, lastSector) ∧
    lastSector.kind = .hd ∧ lastSector.media = .attached diskStore ∧ diskStore.len % 512 = 0 ∧
    (lastSector.cylHigh.toNat * 256 + lastSector.cylLow.toNat) * 512 < diskStore.len ∧
    (answering .ok (machine (some lastSector) none)).nextAnswer = .ok := by decide

set_option maxRecDepth 20000 in
theorem witness_WriteSectorsStoresTheBuffer :
    (answering .ok (machine (some fullDisk) none)).sel .primary = some (.master, fullDisk) ∧ fullDisk.kind = .hd ∧
    fullDisk.media = .attached diskStore ∧ diskStore.wf = true ∧ diskStore.len % 512 = 0 ∧ fullDisk.buf.length = 256 ∧
    fullDisk.hdOffset < diskStore.len ∧ (answering .ok (machine (some fullDisk) none)).nextAnswer = .ok :=
  ⟨rfl, rfl, rfl, by decide, by decide, rfl, by decide, rfl⟩

/-- The disk one sector past its end. -/
def pastEnd : Drive := { disk with cylLow := 2 }

theorem witness_HdCommandErrorsInOrder :
    (machine (some hd0) none).sel .primary = some (.master, hd0) ∧ hd0.kind = .hd ∧ hd0.media = .unattached ∧
    (machine (some pastEnd) none).sel .primary = some (.master, pastEnd) ∧ pastEnd.kind = .hd ∧
    pastEnd.media = .attached diskStore ∧
    diskStore.len ≤ (pastEnd.cylHigh.toNat * 256 + pastEnd.cylLow.toNat) * 512 ∧
    (machine (some lastSector) none).sel .primary = some (.master, lastSector) ∧ lastSector.kind = .hd ∧
    lastSector.media = .attached diskStore ∧
    (lastSector.cylHigh.toNat * 256 + lastSector.cylLow.toNat) * 512 < diskStore.len ∧
    lastSector.buf.length ≠ 256 := by decide

set_option maxRecDepth 20000 in
theorem witness_HdStoreFaultAndStall :
    (answering .ioFault (machine (some fullDisk) none)).sel .primary = some (.master, fullDisk) ∧
    (answering .stall (machine (some fullDisk) none)).sel .primary = some (.master, fullDisk) ∧ fullDisk.kind = .hd ∧
    fullDisk.media = .attached diskStore ∧
    (fullDisk.cylHigh.toNat * 256 + fullDisk.cylLow.toNat) * 512 < diskStore.len ∧
    (answering .ioFault (machine (some fullDisk) none)).nextAnswer = .ioFault ∧
    (answering .stall (machine (some fullDisk) none)).nextAnswer = .stall ∧ fullDisk.buf.length = 256 :=
  ⟨rfl, rfl, rfl, rfl, by decide, rfl, rfl, rfl⟩

theorem witness_IdentifyStagesTheIdentifyBlock :
    (machine (some hd0) none).sel .primary = some (.master, hd0) ∧ hd0.kind = .hd ∧
    (machine (some cd0) none).sel .primary = some (.master, cd0) ∧ cd0.kind = .atapi := by decide

theorem witness_InquiryStagesTheResponse :
    (machine (some cd0) none).sel .primary = some (.master, cd0) ∧ cd0.kind = .atapi := by decide

theorem witness_UnimplementedEncodingsAbort :
    (machine (some hd0) none).sel .primary = some (.master, hd0) ∧ hd0.kind = .hd ∧
    (machine (some cd0) none).sel .primary = some (.master, cd0) ∧ cd0.kind = .atapi := by decide

theorem witness_PacketCompletes :
    (machine (some (cd0.stage [0x0012])) none).sel .primary = some (.master, cd0.stage [0x0012]) ∧
    (machine (some cd0) none).sel .primary = some (.master, cd0) ∧ cd0.kind = .atapi ∧
    (packetOfBuffer (cd0.stage [0x0012]).buf)[0] = 0x12 ∧ (packetOfBuffer cd0.buf)[0] ≠ 0x12 ∧
    (packetOfBuffer cd0.buf)[0] ≠ 0x28 ∧ (packetOfBuffer cd0.buf)[0] ≠ 0xA8 := by decide

/-- The image of `disc`. -/
def discImage : Memory := ⟨2048, [(1, 0x09)]⟩

theorem witness_AtapiReadOutcomes :
    (Instr.read10 .primary 0 0 = .read10 .primary 0 0 ∨ Instr.read10 .primary 0 0 = .read12 .primary 0 0) ∧
    (machine (some cd0) none).sel .primary = some (.master, cd0) ∧ cd0.kind = .atapi ∧ cd0.media = .unattached ∧
    (answering .ok (machine (some disc) none)).sel .primary = some (.master, disc) ∧ disc.kind = .atapi ∧
    disc.media = .attached discImage ∧ (answering .ioFault (machine (some disc) none)).nextAnswer = .ioFault ∧
    (answering .stall (machine (some disc) none)).nextAnswer = .stall ∧
    (answering .ok (machine (some disc) none)).nextAnswer = .ok ∧
    discImage.len < (1 : Dword).toNat * 2048 + 1 * 2048 ∧ (0 : Dword).toNat * 2048 + 1 * 2048 ≤ discImage.len := by
  decide

set_option maxRecDepth 20000 in
theorem witness_HdWriteReadRoundTrip :
    (machine (some fullDisk) none).sel .primary = some (.master, fullDisk) ∧ fullDisk.kind = .hd ∧
    fullDisk.media = .attached diskStore ∧ diskStore.wf = true ∧ diskStore.len % 512 = 0 ∧
    fullDisk.hdOffset < diskStore.len ∧ fullDisk.buf.length = 256 ∧
    ({ machine (some fullDisk) none with answers := [.ok, .ok] } : State).answers = .ok :: .ok :: [] :=
  ⟨rfl, rfl, rfl, by decide, by decide, by decide, rfl, rfl⟩

theorem witness_AttachFillsTheLowestEmptySlot :
    ((machine none none).chan .primary).master = none ∧
    (((machine none none).chan .primary).master = none ∨ ((machine none none).chan .primary).slave = none →
      ∀ x, some (⟨512, []⟩ : Image) = some x → Kind.hd = .hd → x.len % 512 = 0) ∧
    (((machine none none).chan .primary).master = none ∨ ((machine none none).chan .primary).slave = none →
      ∀ x, some (⟨1000, []⟩ : Image) = some x → Kind.atapi = .hd → x.len % 512 = 0) := by
  refine ⟨rfl, fun _ x h _ => ?_, (fun _ x _ h => by cases h)⟩
  cases h
  decide

/-- A full channel and an HD store of a bad length (log 16). -/
theorem witness_AttachFillsTheLowestEmptySlot_full :
    ((machine (some hd0) (some cd0)).chan .primary).master = some hd0 ∧
    ((machine (some hd0) (some cd0)).chan .primary).slave = some cd0 ∧ (⟨1000, []⟩ : Image).len % 512 ≠ 0 ∧
    (((machine (some hd0) (some cd0)).chan .primary).master = none ∨
        ((machine (some hd0) (some cd0)).chan .primary).slave = none →
      ∀ x, some (⟨1000, []⟩ : Image) = some x → Kind.hd = .hd → x.len % 512 = 0) := by
  refine ⟨rfl, rfl, by decide, fun h => ?_⟩
  rcases h with h | h <;> cases h

theorem witness_BadHdStoreLengthFaults :
    (⟨511, []⟩ : Image).len % 512 ≠ 0 ∧ ((machine (some hd0) none).chan .primary).slave = none ∧
    (loadingMachine hd0).loads.find? (fun x => x.loader == load0.loader) = some load0 ∧
    (loadingMachine hd0).driveAt load0.chan load0.slot = some { hd0 with media := .loading } ∧
    ({ hd0 with media := .loading } : Drive).kind = .hd := by decide

theorem witness_LoadStartMakesMediaLoading :
    (machine none none).driveAt .primary .master = none ∧
    (machine (some disk) none).driveAt .primary .master = some disk ∧ disk.media = .attached diskStore := by decide

theorem witness_AtapiLoadCompletionStagesIdentify :
    (loadingMachine cd0).loads.find? (fun x => x.loader == load0.loader) = some load0 ∧
    (loadingMachine cd0).driveAt load0.chan load0.slot = some { cd0 with media := .loading } ∧
    ({ cd0 with media := .loading } : Drive).kind = .atapi := by decide

theorem witness_OtherLoadCompletions :
    (loadingMachine hd0).loads.find? (fun x => x.loader == load0.loader) = some load0 ∧
    (loadingMachine hd0).driveAt load0.chan load0.slot = some { hd0 with media := .loading } ∧
    ({ hd0 with media := .loading } : Drive).kind = .hd ∧ (⟨512, []⟩ : Image).len % 512 = 0 ∧
    (∀ x ∈ (machine none none).loads, x.loader ≠ load0.loader) := by decide

/-- A second load of the same drive, pending beside `load0`. -/
def load1 : Load := ⟨3, .primary, .master, 1⟩

/-- R239: the completion of one of two pending loads leaves the other pending. -/
theorem test_loadDone_keeps_the_other_load :
    (nextOf (step (coming (.loadDone 4 .failed) { loadingMachine hd0 with loads := [load1, load0] }))).map
      (fun t => (t.loads, t.primary.master.map Drive.media)) = some ([load1], some .unattached) := by decide

set_option maxRecDepth 20000 in
theorem witness_SectorCommandWritesComplete :
    admittedSize 1 = true ∧ (0x20 : Dword).extractLsb' 0 8 = (0x20 : Byte) ∧
    (0x130 : Dword).extractLsb' 0 8 = (0x30 : Byte) ∧
    (machine (some hd0) none).sel .primary = some (.master, hd0) ∧ hd0.kind = .hd ∧ hd0.media = .unattached ∧
    (machine (some pastEnd) none).sel .primary = some (.master, pastEnd) ∧ pastEnd.kind = .hd ∧
    pastEnd.media = .attached diskStore ∧
    diskStore.len ≤ (pastEnd.cylHigh.toNat * 256 + pastEnd.cylLow.toNat) * 512 ∧
    (answering .ok (machine (some lastSector) none)).sel .primary = some (.master, lastSector) ∧
    lastSector.kind = .hd ∧ lastSector.media = .attached diskStore ∧ lastSector.buf.length ≠ 256 ∧
    (lastSector.cylHigh.toNat * 256 + lastSector.cylLow.toNat) * 512 < diskStore.len ∧
    diskStore.len % 512 = 0 ∧ (answering .ok (machine (some lastSector) none)).nextAnswer = .ok ∧
    (answering .ok (machine (some fullDisk) none)).sel .primary = some (.master, fullDisk) ∧ fullDisk.kind = .hd ∧
    fullDisk.media = .attached diskStore ∧ diskStore.wf = true ∧ fullDisk.buf.length = 256 ∧
    (fullDisk.cylHigh.toNat * 256 + fullDisk.cylLow.toNat) * 512 < diskStore.len ∧
    (answering .ok (machine (some fullDisk) none)).nextAnswer = .ok :=
  ⟨rfl, rfl, rfl, rfl, rfl, rfl, rfl, rfl, rfl, by decide, rfl, rfl, rfl, by decide, by decide, by decide, rfl, rfl, rfl,
    rfl, by decide, rfl, by decide, rfl⟩

/-- An optical drive with a READ(10) packet for one sector in its buffer; `lba` is the low byte of the address. -/
def readingDisc (d : Drive) (lba : Byte) : Drive := d.stage [0x0028, 0x0000, joinBytes 0x00 lba, 0x0000, 0x0001, 0x0000]

theorem witness_PacketCommandWriteCompletes :
    admittedSize 2 = true ∧ (0xA0 : Dword).extractLsb' 0 8 = (0xA0 : Byte) ∧ cd0.kind = .atapi ∧
    (machine (some (cd0.stage [0x0012])) none).sel .primary = some (.master, cd0.stage [0x0012]) ∧
    (packetOfBuffer (cd0.stage [0x0012]).buf)[0] = 0x12 ∧
    (machine (some cd0) none).sel .primary = some (.master, cd0) ∧ (packetOfBuffer cd0.buf)[0] ≠ 0x12 ∧
    (packetOfBuffer cd0.buf)[0] ≠ 0x28 ∧ (packetOfBuffer cd0.buf)[0] ≠ 0xA8 ∧
    (machine (some (readingDisc cd0 0)) none).sel .primary = some (.master, readingDisc cd0 0) ∧
    (readingDisc cd0 0).media = .unattached ∧ (packetOfBuffer (readingDisc cd0 0).buf)[0] = 0x28 := by decide

theorem witness_PacketCommandWriteCompletes_image :
    (answering .ok (machine (some (readingDisc disc 0)) none)).sel .primary = some (.master, readingDisc disc 0) ∧
    (readingDisc disc 0).kind = .atapi ∧ (readingDisc disc 0).media = .attached discImage ∧
    packetOfBuffer (readingDisc disc 0).buf = #v[0x28, 0, 0, 0, 0, 0, 0, 0, 1, 0, 0, 0] ∧
    (answering .ioFault (machine (some (readingDisc disc 0)) none)).nextAnswer = .ioFault ∧
    (answering .ok (machine (some (readingDisc disc 0)) none)).nextAnswer = .ok ∧
    0 * 2048 + 1 * 2048 ≤ discImage.len ∧
    (answering .ok (machine (some (readingDisc disc 1)) none)).sel .primary = some (.master, readingDisc disc 1) ∧
    packetOfBuffer (readingDisc disc 1).buf = #v[0x28, 0, 0, 0, 0, 1, 0, 0, 1, 0, 0, 0] ∧
    discImage.len < 1 * 2048 + 1 * 2048 := by decide

end Sys2Proof.Tests
end

section
/-! The drive invariant (10_state.md R27 to R36): every operation on a drive keeps `Drive.Inv`, every operation on the
state keeps `State.DriveInv`, and so every step does. -/

namespace Sys2Proof.Machine

/-! ### One drive -/

/-- What `Drive.Inv` says of a drive's medium: an attached store is canonical, and of whole sectors on a hard disk
(20_memory.md R56, R242). -/
def mediaOk (k : Kind) (media : Media) : Prop :=
  ∀ m, media = .attached m → m.wf = true ∧ (k = .hd → m.len % 512 = 0)

theorem Drive.Inv.media_ok {b : ErrBits} {d : Drive} (h : d.Inv b) : mediaOk d.kind d.media := h.store

theorem mediaOk_unattached (k : Kind) : mediaOk k .unattached := fun _ h => by cases h

theorem mediaOk_loading (k : Kind) : mediaOk k .loading := fun _ h => by cases h

/-- A store the host hands over may be attached once its length has been admitted (44_host_operations.md R242). -/
theorem mediaOk_ofImage {k : Kind} {img : Image} (h : admittedImage k img = true) :
    mediaOk k (.attached (Memory.ofImage img)) := by
  rintro m ⟨⟩
  refine ⟨Memory.wf_ofImage img, ?_⟩
  rintro rfl
  simpa [admittedImage, hdSector] using h

/-- A medium stays good when bytes of its store are written (20_memory.md R58). -/
theorem mediaOk_writeBytes {k : Kind} {m : Memory} (h : mediaOk k (.attached m)) (off : Nat) (bs : List Byte) :
    mediaOk k (.attached (m.writeBytes off bs)) := by
  obtain ⟨hwf, hlen⟩ := h m rfl
  rintro m' ⟨⟩
  exact ⟨Memory.wf_writeBytes hwf off bs, by rwa [Memory.len_writeBytes]⟩

/-- An error code is a single bit, never 0x00 (10_state.md R31). -/
theorem errMask_ne_zero (b : ErrBits) (e : ErrCode) : errMask b e ≠ 0x00 := by
  unfold errMask
  generalize errPosition b e = i
  revert i
  decide

/-- A drive that is ready and requests no data meets its invariant, whatever its cursor's place in the buffer. -/
theorem Drive.Inv.of_ready {b : ErrBits} {d : Drive} (hs : d.status = statusDrdy ∨ d.status = statusDrdy ||| statusDsc)
    (hcur : d.cur ≤ d.buf.length) (hcode : d.error = 0x00 ∨ d.error = errMask b .aborted ∨
      d.error = errMask b .idNotFound ∨ d.error = errMask b .uncorrectable ∨ d.error = errMask b .badBlock)
    (hlen : stagedLength d.buf.length) (hm : mediaOk d.kind d.media) : d.Inv b := by
  have hdrq : d.status.getLsbD 3 = false := by rcases hs with h | h <;> rw [h] <;> decide
  have herr : d.status.getLsbD 0 = false := by rcases hs with h | h <;> rw [h] <;> decide
  have hunused : d.status &&& 0xA6 = 0x00 := by rcases hs with h | h <;> rw [h] <;> decide
  exact ⟨hcur, fun h => absurd (hdrq.symm.trans h) Bool.false_ne_true,
    fun h => absurd (herr.symm.trans h) Bool.false_ne_true, hunused, hcode, hlen, hm⟩

/-- A failed command (60_exceptions.md R262). -/
theorem Drive.Inv.fail {cfg : Config} {d : Drive} {e : ErrCode} (hm : mediaOk d.kind d.media)
    (he : e = .aborted ∨ e = .idNotFound ∨ e = .uncorrectable ∨ e = .badBlock) : (d.fail cfg e).Inv cfg.errBits where
  cursor := Nat.le_refl 0
  drq h := absurd h (by rw [Drive.status_fail]; decide)
  err _ := errMask_ne_zero cfg.errBits e
  unused := by rw [Drive.status_fail]; decide
  code := .inr (by rcases he with rfl | rfl | rfl | rfl <;> simp)
  length := .inl rfl
  store := hm

/-- A command that stages data (42_hard_disk.md R162; 43_atapi.md R198). -/
theorem Drive.Inv.succeedWith {b : ErrBits} {d : Drive} {ws : List Word} (hm : mediaOk d.kind d.media)
    (hw : freshLength ws.length) : (d.succeedWith ws).Inv b where
  cursor := Nat.zero_le _
  drq _ := hw.pos
  err h := absurd h (by rw [Drive.status_succeedWith]; decide)
  unused := by rw [Drive.status_succeedWith]; decide
  code := .inl rfl
  length := hw.staged
  store := hm

/-- The Reset of either backend (42_hard_disk.md R160, 43_atapi.md R190). -/
theorem Drive.Inv.backendReset {b : ErrBits} {d : Drive} (hm : mediaOk d.kind d.media) : d.backendReset.Inv b := by
  unfold Drive.backendReset
  split
  · exact .of_ready (.inl rfl) (Nat.le_refl 0) (.inl rfl) (.inl rfl) hm
  · exact .of_ready (.inr rfl) (Nat.le_refl 0) (.inl rfl) (.inl rfl) hm

/-- The cursor moves on by one word: the command ends, or a word is left and the status stays
(41_buffer_protocol.md R140, R142). -/
theorem Drive.Inv.advance {b : ErrBits} {d d' : Drive} (h : d.Inv b) (hlt : d.cur < d.buf.length)
    (hcur : d'.cur = d.cur + 1) (hlen : d'.buf.length = d.buf.length)
    (hs : d'.status = statusDrdy ∨ (d'.status = d.status ∧ d.cur + 1 ≠ d.buf.length))
    (herr : d'.error = d.error) (hkind : d'.kind = d.kind) (hmedia : d'.media = d.media) : d'.Inv b := by
  have hle : d'.cur ≤ d'.buf.length := by omega
  have hcode := herr ▸ h.code
  have hstaged := hlen ▸ h.length
  have hm : mediaOk d'.kind d'.media := by rw [hkind, hmedia]; exact h.media_ok
  rcases hs with hs | ⟨hs, hne⟩
  · exact .of_ready (.inl hs) hle hcode hstaged hm
  · exact ⟨hle, fun _ => by omega, by rw [hs, herr]; exact h.err, by rw [hs]; exact h.unused, hcode, hstaged, hm⟩

/-- A data read (41_buffer_protocol.md R140), in either reading of the early finish. -/
theorem Drive.Inv.bufRead {b : ErrBits} {d : Drive} (h : d.Inv b) (e : EarlyFinish) : (d.bufRead e).2.Inv b := by
  by_cases hlt : d.cur < d.buf.length
  · rw [Drive.bufRead_of_lt e hlt]
    refine h.advance hlt rfl rfl ?_ rfl rfl rfl
    dsimp only
    split
    · exact .inl rfl
    · rename_i hnot
      exact .inr ⟨rfl, fun hend => hnot (.inr hend)⟩
  · rw [Drive.bufRead_of_le e (by omega)]
    exact h

/-- A data write (41_buffer_protocol.md R142). -/
theorem Drive.Inv.bufWrite {b : ErrBits} {d : Drive} (h : d.Inv b) (w : Word) : (d.bufWrite w).Inv b := by
  by_cases hlt : d.cur < d.buf.length
  · rw [Drive.bufWrite_of_lt w hlt]
    refine h.advance hlt rfl (List.length_set ..) ?_ rfl rfl rfl
    dsimp only
    split
    · exact .inl rfl
    · exact .inr ⟨rfl, ‹_›⟩
  · rw [Drive.bufWrite_of_le w (by omega)]
    exact h

/-- The SRST release changes no status bit but BSY and DRDY (40_controller_ports.md R124). -/
theorem getLsbD_srstReleaseStatus (v : Byte) {i : Nat} (hi : i < 6) :
    (srstReleaseStatus v).getLsbD i = v.getLsbD i := by
  have hbsy : statusBsy.getLsbD i = false := by interval_cases i <;> rfl
  have hdrdy : statusDrdy.getLsbD i = false := by interval_cases i <;> rfl
  simp only [srstReleaseStatus, BitVec.getLsbD_or, BitVec.getLsbD_and, BitVec.getLsbD_not, hbsy, hdrdy]
  simp [show i < 8 by omega]

/-- The SRST release sets none of the bits that are never set (10_state.md R27). -/
theorem srstReleaseStatus_unused {v : Byte} (h : v &&& 0xA6 = 0x00) : srstReleaseStatus v &&& 0xA6 = 0x00 := by
  have hdrdy : statusDrdy &&& 0xA6 = 0x00 := by decide
  calc srstReleaseStatus v &&& 0xA6
      = (v &&& 0xA6) &&& ~~~statusBsy ||| (statusDrdy &&& 0xA6) := by
        rw [srstReleaseStatus, BitVec.and_or_distrib_right, BitVec.and_assoc, BitVec.and_comm (~~~statusBsy),
          ← BitVec.and_assoc]
    _ = 0x00 := by rw [h, hdrdy]; simp

/-- The SRST release (40_controller_ports.md R124). -/
theorem Drive.Inv.srstRelease {b : ErrBits} {d : Drive} (h : d.Inv b) :
    ({ d with status := srstReleaseStatus d.status } : Drive).Inv b where
  cursor := h.cursor
  drq hb := h.drq (by rwa [getLsbD_srstReleaseStatus _ (by decide)] at hb)
  err hb := h.err (by rwa [getLsbD_srstReleaseStatus _ (by decide)] at hb)
  unused := srstReleaseStatus_unused h.unused
  code := h.code
  length := h.length
  store := h.store

/-- A drive with another good medium (44_host_operations.md R235 to R238). -/
theorem Drive.Inv.withMedia {b : ErrBits} {d : Drive} (h : d.Inv b) {media : Media} (hm : mediaOk d.kind media) :
    ({ d with media := media } : Drive).Inv b :=
  ⟨h.cursor, h.drq, h.err, h.unused, h.code, h.length, hm⟩

/-- A drive with other bytes in its packet area (10_state.md R32), which the invariant does not constrain. -/
theorem Drive.Inv.withPacket {b : ErrBits} {d : Drive} (h : d.Inv b) (p : Vector Byte 12) :
    ({ d with packet := p } : Drive).Inv b :=
  ⟨h.cursor, h.drq, h.err, h.unused, h.code, h.length, h.store⟩

/-- Whatever one instruction does to a drive keeps the drive's invariant. -/
theorem DriveStep.inv {cfg : Config} {d d' : Drive} (hd : DriveStep cfg d d') (h : d.Inv cfg.errBits) :
    d'.Inv cfg.errBits := by
  cases hd with
  | same => exact h
  | regs a b e f g => exact ⟨h.cursor, h.drq, h.err, h.unused, h.code, h.length, h.store⟩
  | read => exact h.bufRead _
  | write w => exact h.bufWrite w
  | reset => exact .backendReset h.media_ok
  | ready => exact h.srstRelease
  | fail p e he => exact .fail (h.withPacket p).media_ok he
  | staged p ws hw => exact .succeedWith (h.withPacket p).media_ok hw
  | written m hm =>
    exact .of_ready (.inl rfl) h.cursor (.inl rfl) h.length (mediaOk_writeBytes (hm ▸ h.media_ok) _ _)
  | packet p => exact h.withPacket p

theorem status_newDrive (cfg : Config) (k : Kind) (media : Media) :
    (newDrive cfg k media).status = cfg.constructValue := rfl

/-- A new drive whose registers are 0x00 (10_state.md R37; D10). -/
theorem Drive.Inv.newDrive {cfg : Config} {k : Kind} {media : Media} (hc : cfg.constructValue = 0x00)
    (hm : mediaOk k media) : (newDrive cfg k media).Inv cfg.errBits where
  cursor := Nat.le_refl 0
  drq h := by rw [status_newDrive, hc] at h; cases h
  err h := by rw [status_newDrive, hc] at h; cases h
  unused := by rw [status_newDrive, hc]; decide
  code := .inl hc
  length := .inl rfl
  store := hm

theorem mediaOk_initialMedia {k : Kind} {img : Option Image} (h : ∀ x, img = some x → admittedImage k x = true) :
    mediaOk k (initialMedia img) := by
  cases img with
  | none => exact mediaOk_unattached k
  | some x => exact mediaOk_ofImage (h x rfl)

/-- A drive as an attach leaves it (44_host_operations.md R231, R232). -/
theorem Drive.Inv.attachedDrive {cfg : Config} {k : Kind} {img : Option Image} (hc : cfg.constructValue = 0x00)
    (h : ∀ x, img = some x → admittedImage k x = true) : (attachedDrive cfg k img).Inv cfg.errBits := by
  have hm := mediaOk_initialMedia h
  cases k with
  | hd => exact .newDrive hc hm
  | atapi => exact .of_ready (.inr rfl) (Nat.le_refl 0) (.inl rfl) (.inl rfl) hm

/-! ### The state -/

/-- The invariant speaks only of the drives, the stores given back and the configuration. -/
theorem State.DriveInv.of_same {s t : State} (h : s.DriveInv) (hd : ∀ c sl, t.driveAt c sl = s.driveAt c sl)
    (hr : t.released = s.released) (hc : t.cfg = s.cfg) : t.DriveInv where
  construct := hc ▸ h.construct
  drives c sl d hs := hc ▸ h.drives c sl d (hd c sl ▸ hs)
  released := hr ▸ h.released

theorem State.DriveInv.withInputs {s : State} (h : s.DriveInv) (ins : List Input) :
    ({ s with inputs := ins } : State).DriveInv :=
  h.of_same (fun c _ => by cases c <;> rfl) rfl rfl

theorem State.DriveInv.emit {s : State} (h : s.DriveInv) (e : Event) : (s.emit e).DriveInv :=
  h.of_same (by simp) rfl rfl

theorem State.DriveInv.dropLoader {s : State} (h : s.DriveInv) (loader : Nat) : (s.dropLoader loader).DriveInv :=
  h.of_same (fun c _ => by cases c <;> rfl) rfl rfl

/-- A slot emptied, or filled with a drive that meets its invariant. -/
theorem State.DriveInv.setSlot {s : State} (h : s.DriveInv) (c : Chan) (sl : Slot) {o : Option Drive}
    (ho : ∀ d, o = some d → d.Inv s.cfg.errBits) : (s.setSlot c sl o).DriveInv where
  construct := by simpa using h.construct
  drives c' sl' d hd := by
    rw [State.cfg_setSlot]
    rw [State.driveAt_setSlot] at hd
    split at hd
    · exact ho d hd
    · exact h.drives c' sl' d hd
  released := by simpa using h.released

theorem State.DriveInv.setDrive {s : State} (h : s.DriveInv) (c : Chan) (sl : Slot) {d : Drive}
    (hd : d.Inv s.cfg.errBits) : (s.setDrive c sl d).DriveInv :=
  h.setSlot c sl fun _ he => Option.some.inj he ▸ hd

/-- A drive's medium given back (44_host_operations.md R233, R235). -/
theorem State.DriveInv.release {s : State} (h : s.DriveInv) {k : Kind} {media : Media} (hm : mediaOk k media) :
    (s.release media).DriveInv where
  construct := by simpa using h.construct
  drives c sl d hd := by simpa using h.drives c sl d (by simpa using hd)
  released m hin := by
    cases media with
    | unattached => exact h.released m hin
    | loading => exact h.released m hin
    | attached m0 =>
      rcases List.mem_cons.1 hin with rfl | hin
      · exact (hm m rfl).1
      · exact h.released m hin

/-- A drive's medium given back and a drive stored in its place. -/
theorem State.DriveInv.replaceMedia {s : State} (h : s.DriveInv) {c : Chan} {sl : Slot} {d d' : Drive}
    (hs : s.driveAt c sl = some d) (hd : d'.Inv s.cfg.errBits) :
    ((s.release d.media).setDrive c sl d').DriveInv :=
  (h.release (h.drives c sl d hs).media_ok).setDrive c sl (by simpa using hd)

/-- Every instruction keeps the invariant. -/
theorem exec_driveInv {i : Instr} {s t : State} (h : s.DriveInv) (he : exec i s = .next t) : t.DriveInv := by
  have hst := exec_static he
  refine ⟨hst.cfg ▸ h.construct, fun c sl d' hd' => ?_, hst.released ▸ h.released⟩
  rw [hst.cfg]
  rcases exec_drives he c sl with ⟨-, hnone⟩ | ⟨d, d'', hs, ht, hstep⟩
  · rw [hnone] at hd'
    cases hd'
  · cases ht.symm.trans hd'
    exact hstep.inv (h.drives c sl d hs)

theorem hostAttach_driveInv {c : Chan} {k : Kind} {img : Option Image} {s t : State} (h : s.DriveInv)
    (ha : hostAttach c k img s = .next t) : t.DriveInv := by
  rcases hostAttach_eq_next ha with ⟨-, rfl⟩ | ⟨sl, -, hadm, rfl⟩
  · exact h.emit _
  · exact h.setDrive c sl (.attachedDrive h.construct hadm)

theorem detachSlot_driveInv {s : State} (h : s.DriveInv) (c : Chan) (k : Kind) (sl : Slot) :
    (detachSlot c k sl s).DriveInv := by
  unfold detachSlot
  split
  · exact h
  · rename_i d hd
    split
    · have hrel := h.release (h.drives c sl d hd).media_ok
      have hempty : ((s.release d.media).setSlot c sl none).DriveInv := hrel.setSlot c sl (by simp)
      exact hempty.of_same (fun c' _ => by cases c' <;> rfl) rfl rfl
    · exact h

theorem resetChannel_driveInv {s : State} (h : s.DriveInv) (c : Chan) : (s.resetChannel c).DriveInv := by
  obtain ⟨-, -, -, -, -, -, -, -, hrel, hcfg⟩ := State.frame_resetChannel s c
  refine ⟨hcfg ▸ h.construct, fun c' sl d hd => ?_, hrel ▸ h.released⟩
  rw [hcfg]
  rw [State.driveAt_resetChannel] at hd
  split at hd
  · obtain ⟨d0, hd0, rfl⟩ := Option.map_eq_some_iff.1 hd
    exact .backendReset (h.drives c' sl d0 hd0).media_ok
  · exact h.drives c' sl d hd

theorem hostLoadImage_driveInv {c : Chan} {sl : Slot} {src : Nat} {s t : State} (h : s.DriveInv)
    (hl : hostLoadImage c sl src s = .next t) : t.DriveInv := by
  rcases hostLoadImage_eq_next hl with ⟨-, rfl⟩ | ⟨d, hd, rfl⟩
  · exact h.emit _
  · have hstart := h.replaceMedia hd ((h.drives c sl d hd).withMedia (mediaOk_loading d.kind))
    exact hstart.of_same (fun c' _ => by cases c' <;> rfl) rfl rfl

theorem loadDone_driveInv {loader : Nat} {ans : LoadAnswer} {s t : State} (h : s.DriveInv)
    (hl : loadDone loader ans s = .next t) : t.DriveInv := by
  have hdrop := h.dropLoader loader
  rcases loadDone_eq_next hl with ⟨-, rfl⟩ | ⟨l, -, ⟨-, rfl⟩ | ⟨d, hd, hans⟩⟩
  · exact h
  · exact hdrop
  · have hinv := h.drives l.chan l.slot d hd
    have hd' : (s.dropLoader loader).driveAt l.chan l.slot = some d := by
      rw [← hd]; cases l.chan <;> rfl
    rcases hans with ⟨img, d', -, hadm, hd'', rfl⟩ | ⟨-, rfl⟩
    · have hloaded := hinv.withMedia (mediaOk_ofImage hadm)
      refine hdrop.replaceMedia hd' ?_
      rcases hd'' with ⟨-, rfl⟩ | ⟨-, rfl⟩
      · exact hloaded
      · exact .succeedWith hloaded.media_ok (by simpa using freshLength_hd)
    · exact (hdrop.replaceMedia hd' (hinv.withMedia (mediaOk_unattached d.kind))).emit _

/-- Every input keeps the invariant (44_host_operations.md R230). -/
theorem perform_driveInv {inp : Input} {s t : State} (h : s.DriveInv) (hp : perform exec inp s = .next t) :
    t.DriveInv := by
  cases inp with
  | guest a => exact exec_driveInv h hp
  | attach c k img => exact hostAttach_driveInv h hp
  | detachAll c k => exact next_inj hp ▸ detachSlot_driveInv (detachSlot_driveInv h c k .master) c k .slave
  | resetChannel c => exact next_inj hp ▸ resetChannel_driveInv h c
  | loadImage c sl src => exact hostLoadImage_driveInv h hp
  | loadDone l ans => exact loadDone_driveInv h hp

/-- Settles O11: an idle step changes nothing, and every input keeps the invariant. -/
theorem stepKeepsDriveInvariant : Obligations.StepKeepsDriveInvariant := by
  intro s t h hstep
  rcases step_eq_next hstep with ⟨-, rfl⟩ | ⟨inp, rest, -, hp⟩
  · exact h
  · exact perform_driveInv (h.withInputs rest) hp

end Sys2Proof.Machine
end

section
/-! The rules of the whole machine (10_state.md R20 to R23, R38, R39): the configuration, device control and drive
selection through a step, and the power-on state. -/

namespace Sys2Proof.Machine

/-! ### What an instruction does to device control and drive selection -/

/-- An instruction's effect on drives leaves every channel's device control and selection alone. -/
theorem Effect.chan_frame {c : Chan} {s t : State} (h : Effect c s t) (c' : Chan) :
    (t.chan c').devCtl = (s.chan c').devCtl ∧ (t.chan c').primarySelected = (s.chan c').primarySelected := by
  rcases h.2 with hq | ⟨sl, d, d', -, -, hq⟩ <;> rw [hq c'] <;> simp

theorem State.devCtl_storeDevCtl_other (s : State) {c c' : Chan} (h : c' ≠ c) (v : Byte) :
    ((s.storeDevCtl c v).chan c').devCtl = (s.chan c').devCtl := by
  rw [State.storeDevCtl, State.chan_setChan_other s h]

theorem State.primarySelected_select_other (s : State) {c c' : Chan} (h : c' ≠ c) (v : Byte) :
    ((s.select c v).chan c').primarySelected = (s.chan c').primarySelected := by
  rw [State.select, State.chan_setChan_other s h]

/-- The SRST release leaves every channel's device control and selection alone (40_controller_ports.md R124). -/
theorem State.chan_frame_srstRelease (s : State) (c c' : Chan) :
    ((s.srstRelease c).chan c').devCtl = (s.chan c').devCtl ∧
      ((s.srstRelease c).chan c').primarySelected = (s.chan c').primarySelected := by
  rw [State.srstRelease, State.chan_setChan]
  split
  · rename_i hc
    rw [hc, Channel.devCtl_mapDrives, Channel.primarySelected_mapDrives]
    exact ⟨rfl, rfl⟩
  · exact ⟨rfl, rfl⟩

/-- DEVCTL_WR does to device control and selection what storing the byte does, SRST edge or not
(40_controller_ports.md R122 to R124). -/
theorem devctlWr_chan_frame {c : Chan} {n : Nat} {v : Dword} {s t : State} (h : execDevctlWr c n v s = .next t)
    (c' : Chan) : (t.chan c').devCtl = ((s.storeDevCtl c (valueByte v)).chan c').devCtl ∧
      (t.chan c').primarySelected = (s.chan c').primarySelected := by
  rw [← State.primarySelected_storeDevCtl s c c' (valueByte v)]
  rcases devctlWr_eq_next h with rfl | rfl | rfl
  · exact ⟨rfl, rfl⟩
  · exact (State.frame_resetChannel _ c).1 c'
  · exact State.chan_frame_srstRelease _ c c'

/-- DRVHD_WR does to device control and selection what the selection part does (40_controller_ports.md R117). -/
theorem drvhdWr_chan_frame {c : Chan} {n : Nat} {v : Dword} {s t : State} (h : execDrvhdWr c n v s = .next t)
    (c' : Chan) : (t.chan c').devCtl = (s.chan c').devCtl ∧
      (t.chan c').primarySelected = ((s.select c (valueByte v)).chan c').primarySelected := by
  rcases drvhdWr_eq_next h with rfl | ⟨sl, d, -, rfl⟩ <;> simp

/-- An instruction that changes a channel's device control is DEVCTL_WR of that channel (10_state.md R22). -/
theorem exec_devCtl {i : Instr} {s t : State} (h : exec i s = .next t) (c : Chan) :
    (t.chan c).devCtl = (s.chan c).devCtl ∨ ∃ n v, i = .devctlWr c n v ∧ (t.chan c).devCtl = valueByte v := by
  rcases exec_effect h with ⟨c0, -, he⟩ | ⟨c0, n, v, -, he⟩ | ⟨c0, n, v, hi, he⟩
  · exact .inl (he.chan_frame c).1
  · exact .inl (drvhdWr_chan_frame he c).1
  · rw [(devctlWr_chan_frame he c).1]
    by_cases hc : c = c0
    · subst hc
      exact .inr ⟨n, v, hi, by simp⟩
    · exact .inl (State.devCtl_storeDevCtl_other s hc _)

/-- An instruction that changes a channel's selection is DRVHD_WR of that channel (10_state.md R23). -/
theorem exec_primarySelected {i : Instr} {s t : State} (h : exec i s = .next t) (c : Chan) :
    (t.chan c).primarySelected = (s.chan c).primarySelected ∨
    ∃ n v, i = .drvhdWr c n v ∧ (t.chan c).primarySelected = selectsMaster (valueByte v) := by
  rcases exec_effect h with ⟨c0, -, he⟩ | ⟨c0, n, v, hi, he⟩ | ⟨c0, n, v, -, he⟩
  · exact .inl (he.chan_frame c).2
  · rw [(drvhdWr_chan_frame he c).2]
    by_cases hc : c = c0
    · subst hc
      exact .inr ⟨n, v, hi, by simp⟩
    · exact .inl (State.primarySelected_select_other s hc _)
  · exact .inl (devctlWr_chan_frame he c).2

/-- The drive-select bit of a written value is its bit 4 (30_encoding.md R79). -/
theorem selectsMaster_valueByte (v : Dword) : selectsMaster (valueByte v) = !v.getLsbD 4 := by
  simp [selectsMaster, valueByte]

/-! ### Steps -/

/-- Taking an input away changes no channel. -/
@[simp] theorem State.chan_withInputs (s : State) (ins : List Input) (c : Chan) :
    ({ s with inputs := ins } : State).chan c = s.chan c := by
  cases c <;> rfl

/-- Everything a step can do to the guest's side: nothing, or what the instruction of a guest access does. -/
theorem step_guest_or_static {s t : State} (h : step s = .next t) :
    (∃ a rest, nextInput s.guestStalled s.inputs = some (.guest a, rest) ∧
      exec (decodeAccess a) { s with inputs := rest } = .next t) ∨
    (t.cfg = s.cfg ∧ ∀ c, (t.chan c).devCtl = (s.chan c).devCtl ∧
      (t.chan c).primarySelected = (s.chan c).primarySelected) := by
  rcases step_eq_next h with ⟨-, rfl⟩ | ⟨inp, rest, hin, hp⟩
  · exact .inr ⟨rfl, fun _ => ⟨rfl, rfl⟩⟩
  · by_cases hg : ∃ a, inp = .guest a
    · obtain ⟨a, rfl⟩ := hg
      exact .inl ⟨a, rest, hin, hp⟩
    · have hst := perform_guestStatic (fun a ha => hg ⟨a, ha⟩) hp
      exact .inr ⟨hst.cfg, fun c => ⟨by simpa using hst.devCtl c, by simpa using hst.selected c⟩⟩

/-- Settles O13: neither an instruction nor a host or loader step touches the configuration. -/
theorem stepKeepsConfiguration : Obligations.StepKeepsConfiguration := by
  intro s t h
  rcases step_guest_or_static h with ⟨a, rest, -, he⟩ | ⟨hcfg, -⟩
  · exact (exec_static he).cfg
  · exact hcfg

/-- Settles O14: a step that changes device control performs a guest access, and that access is DEVCTL_WR. -/
theorem onlyDeviceControlWritesChangeDevCtl : Obligations.OnlyDeviceControlWritesChangeDevCtl := by
  intro s t c h hne
  rcases step_guest_or_static h with ⟨a, rest, hin, he⟩ | ⟨-, hst⟩
  · rcases exec_devCtl he c with hsame | ⟨n, v, hi, hv⟩
    · exact absurd (by simpa using hsame) hne
    · exact ⟨a, rest, n, v, hin, hi, hv⟩
  · exact absurd (hst c).1 hne

/-- Settles O15: a step that changes a selection performs a guest access, and that access is DRVHD_WR. -/
theorem onlyDriveHeadWritesChangeSelection : Obligations.OnlyDriveHeadWritesChangeSelection := by
  intro s t c h hne
  rcases step_guest_or_static h with ⟨a, rest, hin, he⟩ | ⟨-, hst⟩
  · rcases exec_primarySelected he c with hsame | ⟨n, v, hi, hv⟩
    · exact absurd (by simpa using hsame) hne
    · exact ⟨a, rest, n, v, hin, hi, hv.trans (selectsMaster_valueByte v)⟩
  · exact absurd (hst c).2 hne

/-- The port decoder reads an access and decodes it (30_encoding.md R70 to R72). -/
theorem decode_port_of_accessOfBytes {bs rest : List Byte} {a : Access} (h : accessOfBytes bs = .ok (a, rest)) :
    decode .port bs = .ok (decodeAccess a, rest) := by
  simp [decode, h]

/-- A running guest's access at the head of the inputs is the one a step performs (20_memory.md R61). -/
theorem step_guest {s : State} (hr : s.guestStalled = false) (a : Access) :
    step { s with inputs := .guest a :: s.inputs } = exec (decodeAccess a) s := by
  have hn : nextInput s.guestStalled (.guest a :: s.inputs) = some (.guest a, s.inputs) := by
    rw [hr, nextInput_running]
  simp only [step, hn, perform]

/-- Settles O5: the bytes decode to the instruction of the access they hold, and the step runs it. -/
theorem stepRunsTheDecodedAccess : Obligations.StepRunsTheDecodedAccess := by
  intro s bs rest a i hr hacc hdec
  rw [decode_port_of_accessOfBytes hacc] at hdec
  cases hdec
  exact step_guest hr a

/-! ### Power-on -/

/-- Both channels start as `Channel.reset` (10_state.md R38). -/
@[simp] theorem State.chan_reset (c : Chan) : State.reset.chan c = Channel.reset := by
  cases c <;> rfl

/-- All four slots are empty at power-on (10_state.md R38). -/
@[simp] theorem State.driveAt_reset (c : Chan) (sl : Slot) : State.reset.driveAt c sl = none := by
  rw [State.driveAt, State.chan_reset]
  cases sl <;> rfl

/-- Settles O9: the channels by `State.chan_reset`, the defaults and the idle step by evaluation. -/
theorem resetIsPowerOn : Obligations.ResetIsPowerOn := by
  refine ⟨fun c => ?_, rfl, rfl, rfl, rfl, rfl, rfl, rfl, rfl, rfl, rfl, rfl⟩
  rw [State.chan_reset]
  exact ⟨rfl, rfl, rfl, rfl⟩

/-- At power-on there is no drive and no given-back store to constrain (10_state.md R38). -/
theorem driveInv_reset : State.reset.DriveInv where
  construct := rfl
  drives c sl d h := by simp at h
  released m h := absurd h List.not_mem_nil

/-- At power-on no load is pending and no drive is Loading (10_state.md R38). -/
theorem loadInv_reset : State.reset.LoadInv where
  target l h := absurd h List.not_mem_nil
  loading c sl d h := by simp at h
  distinct := List.nodup_nil
  fresh l h := absurd h List.not_mem_nil

/-- Settles O10: no drive, no given-back store, no load. -/
theorem resetMeetsInvariants : Obligations.ResetMeetsInvariants :=
  ⟨driveInv_reset, loadInv_reset⟩

end Sys2Proof.Machine
end

section
/-! What an instruction does to the drives' media (20_memory.md R50, R57, R58), and the store access of a hard-disk
command when the store does not give Ok (20_memory.md R56, 60_exceptions.md R269, R270). -/

namespace Sys2Proof.Machine

/-! ### Media that stay -/

/-- No drive appears or goes, and every drive keeps its medium: the store it is attached to, byte for byte. -/
def MediaKept (s t : State) : Prop :=
  ∀ c sl, (t.driveAt c sl).map Drive.media = (s.driveAt c sl).map Drive.media

theorem MediaKept.of_driveAt {s t : State} (h : ∀ c sl, t.driveAt c sl = s.driveAt c sl) : MediaKept s t :=
  fun c sl => by rw [h c sl]

theorem MediaKept.refl (s : State) : MediaKept s s := .of_driveAt fun _ _ => rfl

theorem MediaKept.trans {s t u : State} (h : MediaKept s t) (h' : MediaKept t u) : MediaKept s u :=
  fun c sl => (h' c sl).trans (h c sl)

theorem MediaKept.emit (s : State) (e : Event) : MediaKept s (s.emit e) := .of_driveAt (by simp)

theorem MediaKept.reply (s : State) (v : Dword) : MediaKept s (s.reply v) := .of_driveAt (by simp)

/-- A store access answered, before anything is done with the answer (20_memory.md R56, R57). -/
theorem MediaKept.afterDraw (s : State) : MediaKept s s.afterDraw := .of_driveAt (by simp)

theorem MediaKept.stall (s : State) : MediaKept s s.stall := .of_driveAt (by simp)

/-- A drive replaced by one with the same medium. -/
theorem MediaKept.setDrive {s : State} {c : Chan} {sl : Slot} {d d' : Drive} (h : s.sel c = some (sl, d))
    (hm : d'.media = d.media) : MediaKept s (s.setDrive c sl d') := by
  intro c' sl'
  rw [State.driveAt_setDrive]
  split
  · rename_i hc
    obtain ⟨rfl, rfl⟩ := hc
    rw [State.driveAt_of_sel h, Option.map_some, Option.map_some, hm]
  · rfl

/-- Every drive of one channel changed by a function that keeps the medium. -/
theorem MediaKept.of_map {s t : State} {c : Chan} {f : Drive → Drive}
    (h : ∀ c' sl, t.driveAt c' sl = if c' = c then (s.driveAt c' sl).map f else s.driveAt c' sl)
    (hf : ∀ d, (f d).media = d.media) : MediaKept s t := by
  intro c' sl
  rw [h]
  split
  · rw [Option.map_map]
    exact congrArg (Option.map · _) (funext hf)
  · rfl

/-! ### Drive operations -/

/-- A data read moves the cursor, never the store (41_buffer_protocol.md R140). -/
@[simp] theorem Drive.media_bufRead (e : EarlyFinish) (d : Drive) : (d.bufRead e).2.media = d.media := by
  by_cases h : d.cur < d.buf.length
  · rw [Drive.bufRead_of_lt e h]
  · rw [Drive.bufRead_of_le e (by omega)]

/-- A data write fills the buffer, never the store (41_buffer_protocol.md R142). -/
@[simp] theorem Drive.media_bufWrite (w : Word) (d : Drive) : (d.bufWrite w).media = d.media := by
  by_cases h : d.cur < d.buf.length
  · rw [Drive.bufWrite_of_lt w h]
  · rw [Drive.bufWrite_of_le w (by omega)]

@[simp] theorem Drive.media_backendReset (d : Drive) : d.backendReset.media = d.media := by
  unfold Drive.backendReset
  split <;> rfl

/-! ### Port instructions -/

theorem mediaKept_regRead {c : Chan} {n : Nat} {reg : Drive → Byte} {s t : State} (h : regRead c n reg s = .next t) :
    MediaKept s t := by
  obtain ⟨v, rfl⟩ := regRead_eq_next h
  exact .reply s v

theorem mediaKept_regWrite {c : Chan} {n : Nat} {v : Dword} {put : Byte → Drive → Drive} {s t : State}
    (h : regWrite c n v put s = .next t) (hp : ∀ b d, (put b d).media = d.media) : MediaKept s t := by
  rcases regWrite_eq_next h with ⟨-, rfl⟩ | ⟨sl, d, hs, rfl⟩
  · exact .refl t
  · exact .setDrive hs (hp _ d)

theorem mediaKept_dataRd {c : Chan} {n : Nat} {s t : State} (h : execDataRd c n s = .next t) : MediaKept s t := by
  obtain ⟨-, h⟩ := whenAdmitted_eq_next h
  cases next_inj h
  split
  · exact .reply s 0
  · have hs : s.sel c = _ := ‹_›
    exact ((MediaKept.emit s _).trans (.setDrive (by simpa using hs) (Drive.media_bufRead _ _))).trans (.reply _ _)

theorem mediaKept_dataWr {c : Chan} {n : Nat} {v : Dword} {s t : State} (h : execDataWr c n v s = .next t) :
    MediaKept s t := by
  obtain ⟨-, h⟩ := whenAdmitted_eq_next h
  cases next_inj h
  split
  · exact .refl s
  · have hs : s.sel c = _ := ‹_›
    exact (MediaKept.emit s _).trans (.setDrive (by simpa using hs) (Drive.media_bufWrite _ _))

theorem mediaKept_statusRd {c : Chan} {n : Nat} {s t : State} (h : execStatusRd c n s = .next t) : MediaKept s t := by
  obtain ⟨-, h⟩ := whenAdmitted_eq_next h
  cases next_inj h
  split
  · exact .reply s 0
  · exact (MediaKept.emit s _).trans (.reply _ _)

theorem mediaKept_drvhdWr {c : Chan} {n : Nat} {v : Dword} {s t : State} (h : execDrvhdWr c n v s = .next t) :
    MediaKept s t := by
  have hsel : MediaKept s (s.select c (valueByte v)) := .of_driveAt (by simp)
  rcases drvhdWr_eq_next h with rfl | ⟨sl, d, hs, rfl⟩
  · exact hsel
  · exact hsel.trans (.setDrive hs rfl)

/-- Neither edge of SRST touches a store (40_controller_ports.md R123, R124). -/
theorem mediaKept_devctlWr {c : Chan} {n : Nat} {v : Dword} {s t : State} (h : execDevctlWr c n v s = .next t) :
    MediaKept s t := by
  have hstore : MediaKept s (s.storeDevCtl c (valueByte v)) := .of_driveAt (by simp)
  rcases devctlWr_eq_next h with rfl | rfl | rfl
  · exact hstore
  · exact hstore.trans (.of_map (State.driveAt_resetChannel _ c) Drive.media_backendReset)
  · exact hstore.trans (.of_map (State.driveAt_srstRelease _ c) fun _ => rfl)

/-! ### Commands -/

/-- A command keeps the media if what it runs does: without a drive it logs, on the other backend it fails. -/
theorem mediaKept_onBackend {c : Chan} {k : Kind} {s t : State} {run : Slot → Drive → Result}
    (h : onBackend c k s run = .next t)
    (hr : ∀ sl d, s.sel c = some (sl, d) → run sl d = .next t → MediaKept s t) : MediaKept s t := by
  rcases onBackend_eq_next h with ⟨-, rfl⟩ | ⟨sl, d, hs, -, rfl⟩ | ⟨sl, d, hs, -, h⟩
  · exact .emit s _
  · exact .setDrive hs rfl
  · exact hr sl d hs h

/-- A command that only updates the selected drive, keeping its medium: the identify commands, INQUIRY, the aborts. -/
theorem mediaKept_onBackend_update {c : Chan} {k : Kind} {s t : State} {f : Drive → Drive}
    (h : (onBackend c k s fun sl d => .next (s.setDrive c sl (f d))) = .next t)
    (hf : ∀ d, (f d).media = d.media) : MediaKept s t :=
  mediaKept_onBackend h fun _ d hs ht => next_inj ht ▸ .setDrive hs (hf d)

/-- A drive stored once the store access has been answered. -/
theorem MediaKept.setDrive_afterDraw {s : State} {c : Chan} {sl : Slot} {d d' : Drive} (h : s.sel c = some (sl, d))
    (hm : d'.media = d.media) : MediaKept s (s.afterDraw.setDrive c sl d') :=
  (MediaKept.afterDraw s).trans (.setDrive (by simpa using h) hm)

/-- READ_SECTORS copies from the store and leaves it alone (42_hard_disk.md R162). -/
theorem mediaKept_readSectors {c : Chan} {s t : State} (h : execReadSectors c s = .next t) : MediaKept s t := by
  refine mediaKept_onBackend h fun sl d hs h => ?_
  split at h
  · exact next_inj h ▸ .setDrive hs rfl
  · exact next_inj h ▸ .setDrive hs rfl
  · split at h
    · exact next_inj h ▸ .setDrive hs rfl
    · rcases hdReadAccess_eq_next h with ⟨-, rfl⟩ | ⟨-, -, rfl⟩
      · exact (MediaKept.afterDraw s).trans (.stall _)
      · exact .setDrive_afterDraw hs (Drive.media_succeedWith d _)

/-- A packet READ copies from the image, which no ATAPI command writes (20_memory.md R57). -/
theorem mediaKept_cdRead {c : Chan} {lba n : Nat} {s t : State} (h : cdRead c lba n s = .next t) : MediaKept s t := by
  refine mediaKept_onBackend h fun sl d hs h => ?_
  split at h
  · exact next_inj h ▸ .setDrive hs rfl
  · exact next_inj h ▸ .setDrive hs rfl
  · rcases cdReadAccess_eq_next h with rfl | ⟨e, -, rfl⟩ | ⟨-, rfl⟩
    · exact (MediaKept.afterDraw s).trans (.stall _)
    · exact .setDrive_afterDraw hs rfl
    · exact .setDrive_afterDraw hs rfl

theorem mediaKept_inquiry {c : Chan} {s t : State} (h : execInquiry c s = .next t) : MediaKept s t :=
  mediaKept_onBackend_update h fun _ => rfl

/-- A default row of either backend (42_hard_disk.md R165, 43_atapi.md R199, R200). -/
theorem mediaKept_abort {c : Chan} {k : Kind} {s t : State}
    (h : (onBackend c k s fun sl d => .next (s.setDrive c sl (d.fail s.cfg .aborted))) = .next t) : MediaKept s t :=
  mediaKept_onBackend_update h fun _ => rfl

theorem mediaKept_identifyDevice {c : Chan} {s t : State} (h : execIdentifyDevice c s = .next t) : MediaKept s t :=
  mediaKept_onBackend_update h fun _ => rfl

theorem mediaKept_identifyPacketDevice {c : Chan} {s t : State} (h : execIdentifyPacketDevice c s = .next t) :
    MediaKept s t :=
  mediaKept_onBackend_update h fun _ => rfl

/-- Every packet keeps the media (43_atapi.md R194). -/
theorem mediaKept_cdRunPacket {c : Chan} {p : Vector Byte 12} {s t : State} (h : cdRunPacket c p s = .next t) :
    MediaKept s t := by
  unfold cdRunPacket at h
  split at h
  · exact mediaKept_inquiry h
  · split at h
    · exact mediaKept_cdRead h
    · split at h
      · exact mediaKept_cdRead h
      · exact mediaKept_abort h

theorem mediaKept_packet {c : Chan} {s t : State} (h : execPacket c s = .next t) : MediaKept s t :=
  mediaKept_onBackend h fun _ d hs h =>
    (MediaKept.setDrive (d' := { d with packet := packetOfBuffer d.buf }) hs rfl).trans (mediaKept_cdRunPacket h)

/-- Every ATAPI command keeps the media (20_memory.md R57). -/
theorem mediaKept_cdRunCommand {c : Chan} {op : Byte} {s t : State} (h : cdRunCommand c op s = .next t) :
    MediaKept s t := by
  unfold cdRunCommand at h
  split at h
  · exact mediaKept_identifyPacketDevice h
  · split at h
    · exact mediaKept_packet h
    · exact mediaKept_abort h

/-- Every HD command but WRITE_SECTORS keeps the media (20_memory.md R58). -/
theorem mediaKept_hdRunCommand {c : Chan} {op : Byte} {s t : State} (hop : op ≠ 0x30)
    (h : hdRunCommand c op s = .next t) : MediaKept s t := by
  unfold hdRunCommand at h
  rw [if_neg hop] at h
  split at h
  · exact mediaKept_readSectors h
  · split at h
    · exact mediaKept_identifyDevice h
    · exact mediaKept_abort h

theorem mediaKept_commandWr {c : Chan} {n : Nat} {v : Dword} {s t : State} (hop : valueByte v ≠ 0x30)
    (h : execCommandWr c n v s = .next t) : MediaKept s t := by
  obtain ⟨-, h⟩ := whenAdmitted_eq_next h
  split at h
  · exact next_inj h ▸ .emit s _
  · rename_i sl d hs
    refine (MediaKept.emit s (.account d.kind c 7 .write)).trans ?_
    unfold runCommand at h
    split at h
    · exact mediaKept_hdRunCommand hop h
    · exact mediaKept_cdRunCommand h

/-- Settles O19: instruction by instruction, each by the lemma of its shape. -/
theorem onlyWriteSectorsChangesStores : Obligations.OnlyWriteSectorsChangesStores := by
  intro i s t h hws hcmd
  change MediaKept s t
  cases i with
  | dataRd c n => exact mediaKept_dataRd h
  | dataWr c n v => exact mediaKept_dataWr h
  | errorRd c n => exact mediaKept_regRead h
  | precompWr c n v => exact next_inj (whenAdmitted_eq_next h).2 ▸ .refl s
  | seccntRd c n => exact mediaKept_regRead h
  | seccntWr c n v => exact mediaKept_regWrite (show execSeccntWr c n v s = _ from h) fun _ _ => rfl
  | secnumRd c n => exact mediaKept_regRead h
  | secnumWr c n v => exact mediaKept_regWrite (show execSecnumWr c n v s = _ from h) fun _ _ => rfl
  | cylloRd c n => exact mediaKept_regRead h
  | cylloWr c n v => exact mediaKept_regWrite (show execCylloWr c n v s = _ from h) fun _ _ => rfl
  | cylhiRd c n => exact mediaKept_regRead h
  | cylhiWr c n v => exact mediaKept_regWrite (show execCylhiWr c n v s = _ from h) fun _ _ => rfl
  | drvhdRd c n => exact mediaKept_regRead h
  | drvhdWr c n v => exact mediaKept_drvhdWr h
  | statusRd c n => exact mediaKept_statusRd h
  | commandWr c n v => exact mediaKept_commandWr (hcmd c n v rfl) h
  | devctlRd c n => exact next_inj (whenAdmitted_eq_next h).2 ▸ .reply s _
  | devctlWr c n v => exact mediaKept_devctlWr h
  | unmappedRd p n => exact next_inj (whenAdmitted_eq_next h).2 ▸ .reply s _
  | unmappedWr p n v => exact next_inj (whenAdmitted_eq_next h).2 ▸ .refl s
  | readSectors c => exact mediaKept_readSectors h
  | writeSectors c => exact absurd rfl (hws c)
  | identifyDevice c => exact mediaKept_identifyDevice h
  | hdAbortOther c op => exact mediaKept_abort h
  | packet c => exact mediaKept_packet h
  | identifyPacketDevice c => exact mediaKept_identifyPacketDevice h
  | atapiAbortOther c op => exact mediaKept_abort h
  | inquiry c => exact mediaKept_inquiry h
  | read10 c lba len => exact mediaKept_cdRead h
  | read12 c lba len => exact mediaKept_cdRead h
  | pktAbortOther c pop => exact mediaKept_abort h

/-! ### The store access of a hard-disk command -/

/-- The cylinder as a number: its high byte, then its low byte (10_state.md R26). -/
theorem toNat_joinBytes (lo hi : Byte) : (joinBytes lo hi).toNat = hi.toNat * 256 + lo.toNat := by
  rw [joinBytes, BitVec.toNat_append, ← Nat.shiftLeft_add_eq_or_of_lt lo.isLt, Nat.shiftLeft_eq]

/-- The byte offset of an HD command from the cylinder registers (42_hard_disk.md R167). -/
theorem Drive.hdOffset_eq (d : Drive) : d.hdOffset = (d.cylHigh.toNat * 256 + d.cylLow.toNat) * 512 := by
  rw [Drive.hdOffset, Drive.cyl, toNat_joinBytes, hdSector]

/-- READ_SECTORS within an attached store goes to its store access (42_hard_disk.md R162, R166, R168). -/
theorem execReadSectors_of_lt {s : State} {c : Chan} {sl : Slot} {d : Drive} {m : Memory}
    (hs : s.sel c = some (sl, d)) (hk : d.kind = .hd) (hm : d.media = .attached m) (hlt : d.hdOffset < m.len) :
    execReadSectors c s = hdReadAccess c sl d m s := by
  rw [execReadSectors, onBackend_of_sel hs hk]
  simp only [hm]
  rw [if_neg (by omega)]

/-- WRITE_SECTORS within an attached store, with a full buffer, goes to its store access (42_hard_disk.md R163). -/
theorem execWriteSectors_of_lt {s : State} {c : Chan} {sl : Slot} {d : Drive} {m : Memory}
    (hs : s.sel c = some (sl, d)) (hk : d.kind = .hd) (hm : d.media = .attached m) (hlt : d.hdOffset < m.len)
    (hbuf : d.buf.length = 256) : execWriteSectors c s = hdWriteAccess c sl d m s := by
  rw [execWriteSectors, onBackend_of_sel hs hk]
  simp only [hm]
  rw [if_neg (by omega), if_neg (fun h => h hbuf)]

/-- An I/O fault of the store faults READ_SECTORS (60_exceptions.md R269; D25). -/
theorem hdReadAccess_of_ioFault {s : State} (h : s.nextAnswer = .ioFault) (c : Chan) (sl : Slot) (d : Drive)
    (m : Memory) : hdReadAccess c sl d m s = .fault .hdStoreFault := by
  simp only [hdReadAccess, h]

/-- An I/O fault of the store faults WRITE_SECTORS (60_exceptions.md R269; D25). -/
theorem hdWriteAccess_of_ioFault {s : State} (h : s.nextAnswer = .ioFault) (c : Chan) (sl : Slot) (d : Drive)
    (m : Memory) : hdWriteAccess c sl d m s = .fault .hdStoreFault := by
  simp only [hdWriteAccess, h]

/-- A stall of the store stalls the guest and does nothing else to READ_SECTORS's state (60_exceptions.md R270). -/
theorem hdReadAccess_of_stall {s : State} (h : s.nextAnswer = .stall) (c : Chan) (sl : Slot) (d : Drive)
    (m : Memory) : hdReadAccess c sl d m s = .next s.afterDraw.stall := by
  simp only [hdReadAccess, h]

/-- A stall of the store stalls the guest and writes nothing (60_exceptions.md R270; log 14). -/
theorem hdWriteAccess_of_stall {s : State} (h : s.nextAnswer = .stall) (c : Chan) (sl : Slot) (d : Drive)
    (m : Memory) : hdWriteAccess c sl d m s = .next s.afterDraw.stall := by
  simp only [hdWriteAccess, h]

/-- Settles O44: the media, range and buffer checks pass, and the store's answer decides. -/
theorem hdStoreFaultAndStall : Obligations.HdStoreFaultAndStall := by
  intro s c sl d m hs hk hm hlt
  rw [← Drive.hdOffset_eq] at hlt
  have hread : exec (.readSectors c) s = hdReadAccess c sl d m s := execReadSectors_of_lt hs hk hm hlt
  have hwrite : d.buf.length = 256 → exec (.writeSectors c) s = hdWriteAccess c sl d m s :=
    execWriteSectors_of_lt hs hk hm hlt
  refine ⟨fun hfault => ⟨?_, fun hbuf => ?_⟩, fun hstall => ⟨?_, fun hbuf => ?_⟩⟩
  · rw [hread, hdReadAccess_of_ioFault hfault]
  · rw [hwrite hbuf, hdWriteAccess_of_ioFault hfault]
  · rw [hread, hdReadAccess_of_stall hstall, State.stall]
  · rw [hwrite hbuf, hdWriteAccess_of_stall hstall, State.stall]

end Sys2Proof.Machine
end

section
/-! Encoding (30_encoding.md R70 to R80, R86): which access decodes to which instruction, said once as the relation
`Decodes`, and from it the round trips and the opcode table. -/

namespace Sys2Proof

open Machine

/-! ### Ports -/

/-- Bit 7 of a port is its channel (30_encoding.md R71). -/
theorem channelOfPort_eq_primary (p : BitVec 16) : channelOfPort p = .primary ↔ p.getLsbD 7 = true := by
  cases h : p.getLsbD 7 <;> simp only [channelOfPort, h, reduceIte, Bool.false_eq_true, reduceCtorEq]

/-- The mask of port decode leaves out bit 7 alone (30_encoding.md R71). -/
theorem getLsbD_portMask : ∀ i < 16, i ≠ 7 → (0xFF7F#16).getLsbD i = true := by decide

/-- A port is determined by its masked form and its channel (30_encoding.md R71). -/
theorem port_eq_of_mask_eq {p r : BitVec 16} (hq : p &&& 0xFF7F#16 = r &&& 0xFF7F#16)
    (hc : channelOfPort p = channelOfPort r) : p = r := by
  apply BitVec.eq_of_getLsbD_eq
  intro i hi
  by_cases h7 : i = 7
  · rw [h7, Bool.eq_iff_iff, ← channelOfPort_eq_primary, hc, channelOfPort_eq_primary]
  · have hbit := congrArg (·.getLsbD i) hq
    simpa only [BitVec.getLsbD_and, getLsbD_portMask i hi h7, Bool.and_true] using hbit

/-- The port of a task-file offset leads to that offset (20_memory.md R65, 30_encoding.md R71). -/
theorem decodePort_taskPort (c : Chan) (off : Fin 8) :
    decodePort (taskPort c (BitVec.ofNat 16 off)) = .taskFile c off := by
  cases c <;> revert off <;> decide

theorem mask_taskPort (c : Chan) (off : Fin 8) :
    taskPort c (BitVec.ofNat 16 off) &&& 0xFF7F#16 = BitVec.ofNat 16 (0x170 + off) := by
  cases c <;> revert off <;> decide

theorem channelOfPort_taskPort (c : Chan) (off : Fin 8) : channelOfPort (taskPort c (BitVec.ofNat 16 off)) = c := by
  cases c <;> revert off <;> decide

theorem mask_controlPort (c : Chan) : controlPort c &&& 0xFF7F#16 = 0x376#16 := by cases c <;> rfl

theorem channelOfPort_controlPort (c : Chan) : channelOfPort (controlPort c) = c := by cases c <;> rfl

/-- Every port is a task-file port, a control port, or outside the map (20_memory.md R65, 30_encoding.md R71). -/
theorem port_cases (p : BitVec 16) :
    (∃ (c : Chan) (off : Fin 8), p = taskPort c (BitVec.ofNat 16 off)) ∨ (∃ c, p = controlPort c) ∨
    mappedPort p = false := by
  cases hm : mappedPort p with
  | false => exact .inr (.inr rfl)
  | true =>
    simp only [mappedPort, Bool.or_eq_true, Bool.and_eq_true, decide_eq_true_eq, beq_iff_eq] at hm
    rcases hm with ⟨hlo, hhi⟩ | hctl
    · refine .inl ⟨channelOfPort p, ⟨(p &&& 0xFF7F#16).toNat - 0x170, by omega⟩, port_eq_of_mask_eq ?_ ?_⟩
      · rw [mask_taskPort, Nat.add_sub_cancel' hlo, BitVec.ofNat_toNat, BitVec.setWidth_eq]
      · rw [channelOfPort_taskPort]
    · refine .inr (.inl ⟨channelOfPort p, port_eq_of_mask_eq ?_ ?_⟩)
      · rw [mask_controlPort]
        exact BitVec.eq_of_toNat_eq hctl
      · rw [channelOfPort_controlPort]

/-! ### The instructions of the task file -/

section TaskFile

variable (c : Chan) (off : Fin 8) (n : Nat) (v : Dword)

@[simp] theorem wellFormed_taskFileRead : (taskFileRead c off n).wellFormed = admittedSize n := by
  fin_cases off <;> rfl

@[simp] theorem wellFormed_taskFileWrite : (taskFileWrite c off n v).wellFormed = admittedSize n := by
  fin_cases off <;> rfl

@[simp] theorem format_taskFileRead : (taskFileRead c off n).format = .port := by
  fin_cases off <;> rfl

@[simp] theorem format_taskFileWrite : (taskFileWrite c off n v).format = .port := by
  fin_cases off <;> rfl

@[simp] theorem encode_taskFileRead :
    encode (taskFileRead c off n) = encodeRead (taskPort c (BitVec.ofNat 16 off)) n := by
  fin_cases off <;> rfl

@[simp] theorem encode_taskFileWrite :
    encode (taskFileWrite c off n v) = encodeWrite (taskPort c (BitVec.ofNat 16 off)) n v := by
  fin_cases off <;> rfl

@[simp] theorem channel?_taskFileRead : (taskFileRead c off n).channel? = some c := by
  fin_cases off <;> rfl

@[simp] theorem channel?_taskFileWrite : (taskFileWrite c off n v).channel? = some c := by
  fin_cases off <;> rfl

@[simp] theorem tableMatch?_taskFileRead :
    (taskFileRead c off n).tableMatch? = some (0#1 ++ BitVec.ofNat 16 (0x170 + off)) := by
  fin_cases off <;> rfl

@[simp] theorem tableMatch?_taskFileWrite :
    (taskFileWrite c off n v).tableMatch? = some (1#1 ++ BitVec.ofNat 16 (0x170 + off)) := by
  fin_cases off <;> rfl

end TaskFile

/-! ### Which access is which instruction -/

/-- Which instruction a guest access stands for, by where its port lies (30_encoding.md R71, R72). -/
inductive Decodes : Access → Instr → Prop
  | taskRead (c : Chan) (off : Fin 8) (n : Nat) (v : Dword) :
      Decodes ⟨.read, taskPort c (BitVec.ofNat 16 off), n, v⟩ (taskFileRead c off n)
  | taskWrite (c : Chan) (off : Fin 8) (n : Nat) (v : Dword) :
      Decodes ⟨.write, taskPort c (BitVec.ofNat 16 off), n, v⟩ (taskFileWrite c off n v)
  | controlRead (c : Chan) (n : Nat) (v : Dword) : Decodes ⟨.read, controlPort c, n, v⟩ (.devctlRd c n)
  | controlWrite (c : Chan) (n : Nat) (v : Dword) : Decodes ⟨.write, controlPort c, n, v⟩ (.devctlWr c n v)
  | unmappedRead {p : BitVec 16} (n : Nat) (v : Dword) (h : mappedPort p = false) :
      Decodes ⟨.read, p, n, v⟩ (.unmappedRd p n)
  | unmappedWrite {p : BitVec 16} (n : Nat) (v : Dword) (h : mappedPort p = false) :
      Decodes ⟨.write, p, n, v⟩ (.unmappedWr p n v)

/-- `Decodes` is what the decoder does. -/
theorem Decodes.decodeAccess_eq {a : Access} {i : Instr} (h : Decodes a i) : decodeAccess a = i := by
  cases h with
  | taskRead c off n v => simp only [decodeAccess, decodePort_taskPort]
  | taskWrite c off n v => simp only [decodeAccess, decodePort_taskPort]
  | controlRead c n v => simp only [decodeAccess, decodePort_controlPort]
  | controlWrite c n v => simp only [decodeAccess, decodePort_controlPort]
  | unmappedRead n v h => simp only [decodeAccess, decodePort_unmapped h]
  | unmappedWrite n v h => simp only [decodeAccess, decodePort_unmapped h]

/-- Every access decodes. -/
theorem decodes_decodeAccess (a : Access) : Decodes a (decodeAccess a) := by
  suffices ∃ i, Decodes a i by
    obtain ⟨i, h⟩ := this
    rwa [h.decodeAccess_eq]
  obtain ⟨dir, p, n, v⟩ := a
  rcases port_cases p with ⟨c, off, rfl⟩ | ⟨c, rfl⟩ | hm
  · cases dir
    · exact ⟨_, .taskRead c off n v⟩
    · exact ⟨_, .taskWrite c off n v⟩
  · cases dir
    · exact ⟨_, .controlRead c n v⟩
    · exact ⟨_, .controlWrite c n v⟩
  · cases dir
    · exact ⟨_, .unmappedRead n v hm⟩
    · exact ⟨_, .unmappedWrite n v hm⟩

/-! ### Access to bytes and back -/

/-- The bytes of an access (log 4). -/
def Access.bytes (a : Access) : List Byte :=
  match a.dir with
  | .read => encodeRead a.port a.size
  | .write => encodeWrite a.port a.size a.value

/-- An access of an admitted size comes back from its bytes; a read has none for a value. -/
theorem accessOfBytes_bytes {a : Access} (hn : admittedSize a.size = true) (hv : a.dir = .read → a.value = 0)
    (rest : List Byte) : accessOfBytes (a.bytes ++ rest) = .ok (a, rest) := by
  obtain ⟨dir, p, n, v⟩ := a
  cases dir with
  | read =>
    obtain rfl : v = 0 := hv rfl
    exact accessOfBytes_encodeRead p hn rest
  | write => exact accessOfBytes_encodeWrite p v hn rest

/-- The encoding of an instruction is the bytes of every access that decodes to it. -/
theorem Decodes.encode_eq {a : Access} {i : Instr} (h : Decodes a i) : encode i = a.bytes := by
  cases h with
  | taskRead c off n v => exact encode_taskFileRead c off n
  | taskWrite c off n v => exact encode_taskFileWrite c off n v
  | controlRead c n v => rfl
  | controlWrite c n v => rfl
  | unmappedRead n v h => rfl
  | unmappedWrite n v h => rfl

theorem Decodes.format_eq {a : Access} {i : Instr} (h : Decodes a i) : i.format = .port := by
  cases h with
  | taskRead c off n v => exact format_taskFileRead c off n
  | taskWrite c off n v => exact format_taskFileWrite c off n v
  | controlRead c n v => rfl
  | controlWrite c n v => rfl
  | unmappedRead n v h => rfl
  | unmappedWrite n v h => rfl

/-- What an access decodes to is well formed exactly if its size is admitted (40_controller_ports.md R101). -/
theorem Decodes.wellFormed_eq {a : Access} {i : Instr} (h : Decodes a i) : i.wellFormed = admittedSize a.size := by
  cases h with
  | taskRead c off n v => exact wellFormed_taskFileRead c off n
  | taskWrite c off n v => exact wellFormed_taskFileWrite c off n v
  | controlRead c n v => rfl
  | controlWrite c n v => rfl
  | unmappedRead n v h => simp [Instr.wellFormed, h]
  | unmappedWrite n v h => simp [Instr.wellFormed, h]

/-- Settles O2: the encoding of what an access decodes to is the bytes of the access, and they give it back. -/
theorem everyAccessEncodesBack : Obligations.EveryAccessEncodesBack := by
  intro a hn hv
  have h := decodes_decodeAccess a
  refine ⟨h.wellFormed_eq.trans hn, h.format_eq, ?_⟩
  have hback := accessOfBytes_bytes hn hv []
  rwa [List.append_nil, ← h.encode_eq] at hback

/-! ### Instruction to bytes and back -/

/-- The round trip of the instruction that an access decodes to. -/
theorem Decodes.roundTrip {a : Access} {i : Instr} (h : Decodes a i) (hi : i.wellFormed = true)
    (hv : a.dir = .read → a.value = 0) (rest : List Byte) : decode i.format (encode i ++ rest) = .ok (i, rest) := by
  have hn : admittedSize a.size = true := h.wellFormed_eq ▸ hi
  rw [h.format_eq, h.encode_eq, decode_port_of_accessOfBytes (accessOfBytes_bytes hn hv rest), h.decodeAccess_eq]

theorem roundTrip_taskFileRead (c : Chan) (off : Fin 8) {n : Nat} (hi : (taskFileRead c off n).wellFormed = true)
    (rest : List Byte) : decode .port (encode (taskFileRead c off n) ++ rest) = .ok (taskFileRead c off n, rest) :=
  format_taskFileRead c off n ▸ (Decodes.taskRead c off n 0).roundTrip hi (fun _ => rfl) rest

theorem roundTrip_taskFileWrite (c : Chan) (off : Fin 8) {n : Nat} {v : Dword}
    (hi : (taskFileWrite c off n v).wellFormed = true) (rest : List Byte) :
    decode .port (encode (taskFileWrite c off n v) ++ rest) = .ok (taskFileWrite c off n v, rest) :=
  format_taskFileWrite c off n v ▸ (Decodes.taskWrite c off n v).roundTrip hi nofun rest

/-- A command byte without a row of its own is HD_ABORT_OTHER (30_encoding.md R74). -/
theorem decodeHdCommand_other (c : Chan) {op : Byte} (h : (Instr.hdAbortOther c op).wellFormed = true) :
    decodeHdCommand c op = .hdAbortOther c op := by
  simp only [Instr.wellFormed, Bool.and_eq_true, bne_iff_ne] at h
  obtain ⟨⟨hread, hwrite⟩, hidentify⟩ := h
  rw [decodeHdCommand, if_neg hread, if_neg hwrite, if_neg hidentify]

/-- A command byte without a row of its own is ATAPI_ABORT_OTHER (30_encoding.md R74). -/
theorem decodeCdCommand_other (c : Chan) {op : Byte} (h : (Instr.atapiAbortOther c op).wellFormed = true) :
    decodeCdCommand c op = .atapiAbortOther c op := by
  simp only [Instr.wellFormed, Bool.and_eq_true, bne_iff_ne] at h
  obtain ⟨hpacket, hidentify⟩ := h
  rw [decodeCdCommand, if_neg hidentify, if_neg hpacket]

/-- A packet opcode without a row of its own is PKT_ABORT_OTHER (30_encoding.md R75). -/
theorem decodePacket_other (c : Chan) {p : Vector Byte 12} {pop : Byte}
    (h : (Instr.pktAbortOther c pop).wellFormed = true) (hp : p[0] = pop) :
    decodePacket c p = .pktAbortOther c pop := by
  subst hp
  simp only [Instr.wellFormed, Bool.and_eq_true, bne_iff_ne] at h
  obtain ⟨⟨hinquiry, hread10⟩, hread12⟩ := h
  rw [decodePacket, if_neg hinquiry, if_neg hread10, if_neg hread12]

/-- READ(10) takes its operands from bytes 2 to 5 and 7 to 8 (30_encoding.md R76). -/
theorem decodePacket_read10 (c : Chan) {p : Vector Byte 12} (h : p[0] = 0x28) :
    decodePacket c p = .read10 c (packetLba p) (packetLen10 p) := by
  rw [decodePacket, if_neg (by simp [h]), if_pos h]

/-- READ(12) takes its operands from bytes 2 to 5 and 6 to 7 (30_encoding.md R77). -/
theorem decodePacket_read12 (c : Chan) {p : Vector Byte 12} (h : p[0] = 0xA8) :
    decodePacket c p = .read12 c (packetLba p) (packetLen12 p) := by
  rw [decodePacket, if_neg (by simp [h]), if_neg (by simp [h]), if_pos h]

/-- A command byte is decoded for the backend, and the bytes after it stay. -/
theorem decode_ataCmd (k : Kind) (c : Chan) (op : Byte) (rest : List Byte) :
    decode (.ataCmd k c) ([op] ++ rest) = .ok (decodeCommand k c op, rest) := rfl

/-- Twelve bytes are decoded as a packet, and the bytes after them stay (30_encoding.md R75). -/
theorem decode_atapiPkt (c : Chan) (b0 b1 b2 b3 b4 b5 b6 b7 b8 b9 b10 b11 : Byte) (rest : List Byte) :
    decode (.atapiPkt c) ([b0, b1, b2, b3, b4, b5, b6, b7, b8, b9, b10, b11] ++ rest) =
      .ok (decodePacket c #v[b0, b1, b2, b3, b4, b5, b6, b7, b8, b9, b10, b11], rest) := rfl

theorem roundTrip_read10 (c : Chan) (lba : Dword) (len : BitVec 16) (rest : List Byte) :
    decode (.atapiPkt c) (encode (.read10 c lba len) ++ rest) = .ok (.read10 c lba len, rest) := by
  rw [encode, decode_atapiPkt, decodePacket_read10 c rfl]
  simp [packetLba, packetLen10]

theorem roundTrip_read12 (c : Chan) (lba : Dword) (len : BitVec 16) (rest : List Byte) :
    decode (.atapiPkt c) (encode (.read12 c lba len) ++ rest) = .ok (.read12 c lba len, rest) := by
  rw [encode, decode_atapiPkt, decodePacket_read12 c rfl]
  simp [packetLba, packetLen12]

/-- Settles O1: a port instruction is what an access decodes to, so `Decodes.roundTrip` gives it back; the bytes of a
command with a row of its own decode by evaluation, and a default row by its well-formedness. -/
theorem decodeEncodeRoundTrip : Obligations.DecodeEncodeRoundTrip := by
  intro i rest h
  cases i with
  | dataRd c n => exact roundTrip_taskFileRead c 0 h rest
  | dataWr c n v => exact roundTrip_taskFileWrite c 0 h rest
  | errorRd c n => exact roundTrip_taskFileRead c 1 h rest
  | precompWr c n v => exact roundTrip_taskFileWrite c 1 h rest
  | seccntRd c n => exact roundTrip_taskFileRead c 2 h rest
  | seccntWr c n v => exact roundTrip_taskFileWrite c 2 h rest
  | secnumRd c n => exact roundTrip_taskFileRead c 3 h rest
  | secnumWr c n v => exact roundTrip_taskFileWrite c 3 h rest
  | cylloRd c n => exact roundTrip_taskFileRead c 4 h rest
  | cylloWr c n v => exact roundTrip_taskFileWrite c 4 h rest
  | cylhiRd c n => exact roundTrip_taskFileRead c 5 h rest
  | cylhiWr c n v => exact roundTrip_taskFileWrite c 5 h rest
  | drvhdRd c n => exact roundTrip_taskFileRead c 6 h rest
  | drvhdWr c n v => exact roundTrip_taskFileWrite c 6 h rest
  | statusRd c n => exact roundTrip_taskFileRead c 7 h rest
  | commandWr c n v => exact roundTrip_taskFileWrite c 7 h rest
  | devctlRd c n => exact (Decodes.controlRead c n 0).roundTrip h (fun _ => rfl) rest
  | devctlWr c n v => exact (Decodes.controlWrite c n v).roundTrip h nofun rest
  | unmappedRd p n =>
    have hm : mappedPort p = false := by simpa using (Bool.and_eq_true_iff.mp h).2
    exact (Decodes.unmappedRead n 0 hm).roundTrip h (fun _ => rfl) rest
  | unmappedWr p n v =>
    have hm : mappedPort p = false := by simpa using (Bool.and_eq_true_iff.mp h).2
    exact (Decodes.unmappedWrite n v hm).roundTrip h nofun rest
  | readSectors c => rfl
  | writeSectors c => rfl
  | identifyDevice c => rfl
  | hdAbortOther c op =>
    rw [Instr.format, encode, decode_ataCmd, decodeCommand, decodeHdCommand_other c h]
  | packet c => rfl
  | identifyPacketDevice c => rfl
  | atapiAbortOther c op =>
    rw [Instr.format, encode, decode_ataCmd, decodeCommand, decodeCdCommand_other c h]
  | inquiry c => rfl
  | read10 c lba len => exact roundTrip_read10 c lba len rest
  | read12 c lba len => exact roundTrip_read12 c lba len rest
  | pktAbortOther c pop =>
    rw [Instr.format, encode, decode_atapiPkt, decodePacket_other c h rfl]

/-! ### The opcode table -/

/-- The mask of the table's port rows keeps the direction and masks the port (30_encoding.md R71, R86). -/
theorem append_and_tableMask (d : BitVec 1) (p : BitVec 16) :
    (d ++ p) &&& 0x1FF7F#17 = d ++ (p &&& 0xFF7F#16) := by
  rw [show 0x1FF7F#17 = 1#1 ++ 0xFF7F#16 from rfl, BitVec.and_append]
  rw [show d &&& 1#1 = d from BitVec.and_allOnes]

/-- Bit 7 of the access word is bit 7 of the port. -/
theorem getLsbD_word_seven (a : Access) : a.word.getLsbD 7 = a.port.getLsbD 7 := by
  obtain ⟨dir, p, n, v⟩ := a
  cases dir <;> exact BitVec.getLsbD_append.trans (if_pos (by decide))

/-- Masking a port keeps whether it is in the map (30_encoding.md R71). -/
theorem mappedPort_mask (p : BitVec 16) : mappedPort (p &&& 0xFF7F#16) = mappedPort p := by
  simp only [mappedPort, BitVec.and_assoc, BitVec.and_self]

/-- The rows with the mask 0x1FF7F are rows of mapped ports (30_encoding.md R86). -/
theorem mappedPort_of_mem_portRowMatches : ∀ m ∈ portRowMatches, mappedPort (m.extractLsb' 0 16) = true := by
  simp [portRowMatches, mappedPort]

/-- The word of an access outside the map meets no row with the mask 0x1FF7F. -/
theorem word_ne_of_unmapped {d : BitVec 1} {p : BitVec 16} (h : mappedPort p = false) {m : BitVec 17}
    (hm : m ∈ portRowMatches) : (d ++ p) &&& 0x1FF7F#17 ≠ m := by
  rintro rfl
  have hmapped := mappedPort_of_mem_portRowMatches _ hm
  rw [append_and_tableMask, BitVec.extractLsb'_append_eq_right, mappedPort_mask, h] at hmapped
  cases hmapped

/-- An access that decodes to a row with a `match` value has that value under the mask (30_encoding.md R86). -/
theorem Decodes.word_eq_tableMatch {a : Access} {i : Instr} (h : Decodes a i) {m : BitVec 17}
    (hm : i.tableMatch? = some m) : a.word &&& 0x1FF7F#17 = m := by
  cases h with
  | taskRead c off n v =>
    rw [tableMatch?_taskFileRead] at hm
    rw [← Option.some.inj hm, Access.word, append_and_tableMask, mask_taskPort]
  | taskWrite c off n v =>
    rw [tableMatch?_taskFileWrite] at hm
    rw [← Option.some.inj hm, Access.word, append_and_tableMask, mask_taskPort]
  | controlRead c n v =>
    rw [← Option.some.inj hm, Access.word, append_and_tableMask, mask_controlPort]
    rfl
  | controlWrite c n v =>
    rw [← Option.some.inj hm, Access.word, append_and_tableMask, mask_controlPort]
    rfl
  | unmappedRead n v h => cases hm
  | unmappedWrite n v h => cases hm

/-- An access that decodes to a row without a `match` value meets none of the values, and that row is the
UNMAPPED row of its direction (30_encoding.md R86). -/
theorem Decodes.unmapped_of_tableMatch_none {a : Access} {i : Instr} (h : Decodes a i) (hm : i.tableMatch? = none) :
    (∀ m ∈ portRowMatches, a.word &&& 0x1FF7F#17 ≠ m) ∧
    (a.dir = .read → i = .unmappedRd a.port a.size) ∧
    (a.dir = .write → i = .unmappedWr a.port a.size a.value) := by
  cases h with
  | taskRead c off n v => simp at hm
  | taskWrite c off n v => simp at hm
  | controlRead c n v => cases hm
  | controlWrite c n v => cases hm
  | unmappedRead n v h => exact ⟨fun _ hmem => word_ne_of_unmapped h hmem, fun _ => rfl, nofun⟩
  | unmappedWrite n v h => exact ⟨fun _ hmem => word_ne_of_unmapped h hmem, nofun, fun _ => rfl⟩

/-- The channel of what an access decodes to is that of its port (30_encoding.md R71). -/
theorem Decodes.channel_eq {a : Access} {i : Instr} (h : Decodes a i) {c : Chan} (hc : i.channel? = some c) :
    channelOfPort a.port = c := by
  cases h with
  | taskRead c' off n v => simpa [channelOfPort_taskPort] using hc
  | taskWrite c' off n v => simpa [channelOfPort_taskPort] using hc
  | controlRead c' n v => exact (channelOfPort_controlPort c').trans (Option.some.inj hc)
  | controlWrite c' n v => exact (channelOfPort_controlPort c').trans (Option.some.inj hc)
  | unmappedRead n v h => cases hc
  | unmappedWrite n v h => cases hc

/-- Settles O3: row, default row and channel, each by the cases of `Decodes`. -/
theorem portDecodeFollowsOpcodeTable : Obligations.PortDecodeFollowsOpcodeTable := by
  intro a
  have h := decodes_decodeAccess a
  refine ⟨fun m hm => h.word_eq_tableMatch hm, h.unmapped_of_tableMatch_none, fun c hc => ?_⟩
  rw [← h.channel_eq hc, channelOfPort_eq_primary, getLsbD_word_seven]

/-- Settles O4: nine fixed words, each by evaluating the decoder. -/
theorem wordsOfTheTableDecode : Obligations.WordsOfTheTableDecode := by
  unfold Obligations.WordsOfTheTableDecode
  decide

end Sys2Proof
end

section
/-! The two channels do not interfere (40_controller_ports.md R128): every operation on one channel does the same
whatever the other holds. -/

namespace Sys2Proof.Machine

/-! ### State operations beside a replaced channel -/

theorem State.emit_setChan (s : State) (c : Chan) (ch : Channel) (e : Event) :
    (s.setChan c ch).emit e = (s.emit e).setChan c ch := by
  cases c <;> rfl

theorem State.reply_setChan (s : State) (c : Chan) (ch : Channel) (v : Dword) :
    (s.setChan c ch).reply v = (s.reply v).setChan c ch := by
  cases c <;> rfl

theorem State.stall_setChan (s : State) (c : Chan) (ch : Channel) : (s.setChan c ch).stall = s.stall.setChan c ch := by
  cases c <;> rfl

theorem State.afterDraw_setChan (s : State) (c : Chan) (ch : Channel) :
    (s.setChan c ch).afterDraw = s.afterDraw.setChan c ch := by
  cases c <;> rfl

theorem State.nextAnswer_setChan (s : State) (c : Chan) (ch : Channel) :
    (s.setChan c ch).nextAnswer = s.nextAnswer := by
  cases c <;> rfl

/-- Selection on one channel does not look at the other (40_controller_ports.md R102). -/
theorem State.sel_setChan_other (s : State) {c c' : Chan} (h : c' ≠ c) (ch : Channel) :
    (s.setChan c' ch).sel c = s.sel c :=
  State.sel_congr (State.chan_setChan_other s h.symm ch)

/-- An update of one channel commutes with the replacement of the other. -/
theorem State.update_setChan_other (s : State) {c c' : Chan} (h : c' ≠ c) (ch : Channel) (f : Channel → Channel) :
    (s.setChan c' ch).setChan c (f ((s.setChan c' ch).chan c)) = (s.setChan c (f (s.chan c))).setChan c' ch := by
  rw [State.chan_setChan_other s h.symm, State.setChan_comm s h]

theorem State.setDrive_setChan_other (s : State) {c c' : Chan} (h : c' ≠ c) (ch : Channel) (sl : Slot) (d : Drive) :
    (s.setChan c' ch).setDrive c sl d = (s.setDrive c sl d).setChan c' ch :=
  State.update_setChan_other s h ch fun x => x.setSlot sl (some d)

theorem State.select_setChan_other (s : State) {c c' : Chan} (h : c' ≠ c) (ch : Channel) (v : Byte) :
    (s.setChan c' ch).select c v = (s.select c v).setChan c' ch :=
  State.update_setChan_other s h ch fun x => { x with primarySelected := selectsMaster v }

theorem State.storeDevCtl_setChan_other (s : State) {c c' : Chan} (h : c' ≠ c) (ch : Channel) (v : Byte) :
    (s.setChan c' ch).storeDevCtl c v = (s.storeDevCtl c v).setChan c' ch :=
  State.update_setChan_other s h ch fun x => { x with devCtl := v }

theorem State.srstRelease_setChan_other (s : State) {c c' : Chan} (h : c' ≠ c) (ch : Channel) :
    (s.setChan c' ch).srstRelease c = (s.srstRelease c).setChan c' ch :=
  State.update_setChan_other s h ch fun x => x.mapDrives fun d => { d with status := srstReleaseStatus d.status }

theorem State.resetChannel_setChan_other (s : State) {c c' : Chan} (h : c' ≠ c) (ch : Channel) :
    (s.setChan c' ch).resetChannel c = (s.resetChannel c).setChan c' ch := by
  unfold State.resetChannel
  rw [State.update_setChan_other s h ch fun x => x.mapDrives Drive.backendReset, State.emit_setChan,
    State.chan_setChan_other s h.symm]
  split <;> rfl

/-! ### Meanings confined to a channel -/

/-- A meaning that neither reads nor writes any channel but `c`. -/
def Confined (c : Chan) (f : State → Result) : Prop :=
  ∀ (s : State) {c' : Chan} (ch : Channel), c' ≠ c → f (s.setChan c' ch) = outcomeWithChan (f s) c' ch

/-- The size check fits under the replacement of a channel. -/
theorem outcomeWithChan_whenAdmitted (n : Nat) (r : Result) (c : Chan) (ch : Channel) :
    outcomeWithChan (whenAdmitted n r) c ch = whenAdmitted n (outcomeWithChan r c ch) := by
  unfold whenAdmitted
  split <;> rfl

@[simp] theorem outcomeWithChan_next (t : State) (c : Chan) (ch : Channel) :
    outcomeWithChan (.next t) c ch = .next (t.setChan c ch) := rfl

/-- A checked access is confined if what it runs is. -/
theorem Confined.whenAdmitted {c : Chan} {f : State → Result} (hf : Confined c f) (n : Nat) :
    Confined c fun s => whenAdmitted n (f s) :=
  fun s c' ch h => (congrArg (Machine.whenAdmitted n) (hf s ch h)).trans (outcomeWithChan_whenAdmitted n _ c' ch).symm

theorem confined_unchanged (c : Chan) : Confined c .next := fun _ _ _ _ => rfl

/-- A drive of the channel replaced, by the configuration, which is no channel's. -/
theorem confined_update (c : Chan) (sl : Slot) (d : Config → Drive) :
    Confined c fun s => .next (s.setDrive c sl (d s.cfg)) := by
  intro s c' ch h
  dsimp only
  rw [State.cfg_setChan, State.setDrive_setChan_other _ h, outcomeWithChan_next]

/-! ### Port instructions -/

theorem confined_regRead (c : Chan) (n : Nat) (reg : Drive → Byte) : Confined c (regRead c n reg) := by
  refine Confined.whenAdmitted (fun s c' ch h => ?_) n
  rw [State.sel_setChan_other s h]
  cases s.sel c <;> simp [State.reply_setChan]

theorem confined_regWrite (c : Chan) (n : Nat) (v : Dword) (put : Byte → Drive → Drive) :
    Confined c (regWrite c n v put) := by
  refine Confined.whenAdmitted (fun s c' ch h => ?_) n
  rw [State.sel_setChan_other s h]
  cases s.sel c <;> simp [State.setDrive_setChan_other _ h]

theorem confined_dataRd (c : Chan) (n : Nat) : Confined c (execDataRd c n) := by
  refine Confined.whenAdmitted (fun s c' ch h => ?_) n
  rw [State.sel_setChan_other s h, State.cfg_setChan]
  cases s.sel c <;> simp [State.setDrive_setChan_other _ h, State.emit_setChan, State.reply_setChan]

theorem confined_dataWr (c : Chan) (n : Nat) (v : Dword) : Confined c (execDataWr c n v) := by
  refine Confined.whenAdmitted (fun s c' ch h => ?_) n
  rw [State.sel_setChan_other s h]
  cases s.sel c <;> simp [State.setDrive_setChan_other _ h, State.emit_setChan]

theorem confined_statusRd (c : Chan) (n : Nat) : Confined c (execStatusRd c n) := by
  refine Confined.whenAdmitted (fun s c' ch h => ?_) n
  rw [State.sel_setChan_other s h]
  cases s.sel c <;> simp [State.emit_setChan, State.reply_setChan]

theorem confined_precompWr (c : Chan) (n : Nat) (v : Dword) : Confined c (execPrecompWr c n v) :=
  (confined_unchanged c).whenAdmitted n

theorem confined_drvhdWr (c : Chan) (n : Nat) (v : Dword) : Confined c (execDrvhdWr c n v) := by
  refine Confined.whenAdmitted (fun s c' ch h => ?_) n
  dsimp only
  rw [State.select_setChan_other s h, State.sel_setChan_other _ h]
  cases (s.select c (valueByte v)).sel c <;> simp [State.setDrive_setChan_other _ h]

theorem confined_devctlRd (c : Chan) (n : Nat) : Confined c (execDevctlRd c n) := by
  refine Confined.whenAdmitted (fun s c' ch h => ?_) n
  rw [State.chan_setChan_other s h.symm, State.reply_setChan, outcomeWithChan_next]

/-- Neither the stored byte nor an edge of SRST reaches the other channel (40_controller_ports.md R122 to R124). -/
theorem confined_devctlWr (c : Chan) (n : Nat) (v : Dword) : Confined c (execDevctlWr c n v) := by
  refine Confined.whenAdmitted (fun s c' ch h => ?_) n
  dsimp only
  rw [State.chan_setChan_other s h.symm, State.storeDevCtl_setChan_other s h, State.resetChannel_setChan_other _ h,
    State.srstRelease_setChan_other _ h]
  cases srstBit (s.chan c).devCtl <;> cases srstBit (valueByte v) <;> rfl

/-! ### Commands -/

/-- A command is confined to its channel if what it runs on the selected drive is. -/
theorem confined_onBackend {c : Chan} {k : Kind} {run : State → Slot → Drive → Result}
    (hr : ∀ sl d, Confined c fun s => run s sl d) : Confined c fun s => onBackend c k s (run s) := by
  intro s c' ch h
  simp only [onBackend, State.sel_setChan_other s h]
  cases s.sel c with
  | none => simp [State.emit_setChan]
  | some p =>
    dsimp only
    split
    · exact hr p.1 p.2 s ch h
    · simp [State.setDrive_setChan_other _ h]

/-- A command that only updates the selected drive, by the configuration: the identify commands, INQUIRY, the aborts. -/
theorem confined_onBackend_update (c : Chan) (k : Kind) (f : Config → Drive → Drive) :
    Confined c fun s => onBackend c k s fun sl d => .next (s.setDrive c sl (f s.cfg d)) :=
  confined_onBackend fun sl d => confined_update c sl fun cfg => f cfg d

theorem confined_hdReadAccess (c : Chan) (sl : Slot) (d : Drive) (m : Memory) : Confined c (hdReadAccess c sl d m) := by
  intro s c' ch h
  simp only [hdReadAccess, State.nextAnswer_setChan, State.afterDraw_setChan, State.stall_setChan,
    State.setDrive_setChan_other _ h]
  cases s.nextAnswer with
  | stall => rfl
  | ioFault => rfl
  | ok => dsimp only; split <;> rfl

theorem confined_hdWriteAccess (c : Chan) (sl : Slot) (d : Drive) (m : Memory) :
    Confined c (hdWriteAccess c sl d m) := by
  intro s c' ch h
  simp only [hdWriteAccess, State.nextAnswer_setChan, State.afterDraw_setChan, State.stall_setChan,
    State.setDrive_setChan_other _ h]
  cases s.nextAnswer with
  | stall => rfl
  | ioFault => rfl
  | ok => dsimp only; split <;> rfl

theorem confined_cdReadAccess (c : Chan) (sl : Slot) (d : Drive) (m : Memory) (lba n : Nat) :
    Confined c (cdReadAccess c sl d m lba n) := by
  intro s c' ch h
  simp only [cdReadAccess, State.nextAnswer_setChan, State.afterDraw_setChan, State.stall_setChan, State.cfg_setChan,
    State.setDrive_setChan_other _ h]
  cases s.nextAnswer with
  | stall => rfl
  | ioFault => rfl
  | ok => dsimp only; split <;> rfl

/-- A command that fails the selected drive. -/
theorem confined_fail (c : Chan) (sl : Slot) (d : Drive) (e : ErrCode) :
    Confined c fun s => .next (s.setDrive c sl (d.fail s.cfg e)) :=
  confined_update c sl fun cfg => d.fail cfg e

theorem confined_readSectors (c : Chan) : Confined c (execReadSectors c) := by
  refine confined_onBackend fun sl d => ?_
  cases d.media with
  | unattached => exact confined_fail c sl d _
  | loading => exact confined_fail c sl d _
  | attached m =>
    dsimp only
    split
    · exact confined_fail c sl d _
    · exact confined_hdReadAccess c sl d m

theorem confined_writeSectors (c : Chan) : Confined c (execWriteSectors c) := by
  refine confined_onBackend fun sl d => ?_
  cases d.media with
  | unattached => exact confined_fail c sl d _
  | loading => exact confined_fail c sl d _
  | attached m =>
    dsimp only
    split
    · exact confined_fail c sl d _
    · split
      · exact confined_fail c sl d _
      · exact confined_hdWriteAccess c sl d m

theorem confined_identifyDevice (c : Chan) : Confined c (execIdentifyDevice c) :=
  confined_onBackend_update c .hd fun cfg d => d.succeedWith cfg.hdIdentify.toList

theorem confined_identifyPacketDevice (c : Chan) : Confined c (execIdentifyPacketDevice c) :=
  confined_onBackend_update c .atapi Drive.cdLoadStage

theorem confined_inquiry (c : Chan) : Confined c (execInquiry c) :=
  confined_onBackend_update c .atapi fun cfg d => d.succeedWith (words cfg.inquiryData.toList)

/-- A default row of either backend (42_hard_disk.md R165, 43_atapi.md R199, R200). -/
theorem confined_abort (c : Chan) (k : Kind) :
    Confined c fun s => onBackend c k s fun sl d => .next (s.setDrive c sl (d.fail s.cfg .aborted)) :=
  confined_onBackend_update c k fun cfg d => d.fail cfg .aborted

theorem confined_cdRead (c : Chan) (lba n : Nat) : Confined c (cdRead c lba n) := by
  refine confined_onBackend fun sl d => ?_
  cases d.media with
  | unattached => exact confined_fail c sl d _
  | loading => exact confined_fail c sl d _
  | attached m => exact confined_cdReadAccess c sl d m lba n

theorem confined_cdRunPacket (c : Chan) (p : Vector Byte 12) : Confined c (cdRunPacket c p) := by
  unfold cdRunPacket
  split
  · exact confined_inquiry c
  · split
    · exact confined_cdRead c _ _
    · split
      · exact confined_cdRead c _ _
      · exact confined_abort c .atapi

theorem confined_packet (c : Chan) : Confined c (execPacket c) :=
  confined_onBackend fun sl d s c' ch h => by
    dsimp only
    rw [State.setDrive_setChan_other _ h]
    exact confined_cdRunPacket c _ _ ch h

theorem confined_runCommand (c : Chan) (k : Kind) (op : Byte) : Confined c (runCommand c k op) := by
  cases k with
  | hd =>
    unfold runCommand hdRunCommand
    dsimp only
    split
    · exact confined_readSectors c
    · split
      · exact confined_writeSectors c
      · split
        · exact confined_identifyDevice c
        · exact confined_abort c .hd
  | atapi =>
    unfold runCommand cdRunCommand
    dsimp only
    split
    · exact confined_identifyPacketDevice c
    · split
      · exact confined_packet c
      · exact confined_abort c .atapi

theorem confined_commandWr (c : Chan) (n : Nat) (v : Dword) : Confined c (execCommandWr c n v) := by
  refine Confined.whenAdmitted (fun s c' ch h => ?_) n
  rw [State.sel_setChan_other s h]
  cases s.sel c with
  | none => simp [State.emit_setChan]
  | some p =>
    dsimp only
    rw [State.emit_setChan]
    exact confined_runCommand c p.2.kind (valueByte v) _ ch h

/-! ### Every instruction -/

/-- Every instruction of a channel is confined to it; a port outside the map has no channel. -/
theorem exec_confined {i : Instr} {c : Chan} (hc : i.channel? = some c) : Confined c (exec i) := by
  cases i <;> cases hc
  case dataRd n => exact confined_dataRd c n
  case dataWr n v => exact confined_dataWr c n v
  case errorRd n => exact confined_regRead c n _
  case precompWr n v => exact confined_precompWr c n v
  case seccntRd n => exact confined_regRead c n _
  case seccntWr n v => exact (confined_regWrite c n v _ : Confined c (execSeccntWr c n v))
  case secnumRd n => exact confined_regRead c n _
  case secnumWr n v => exact (confined_regWrite c n v _ : Confined c (execSecnumWr c n v))
  case cylloRd n => exact confined_regRead c n _
  case cylloWr n v => exact (confined_regWrite c n v _ : Confined c (execCylloWr c n v))
  case cylhiRd n => exact confined_regRead c n _
  case cylhiWr n v => exact (confined_regWrite c n v _ : Confined c (execCylhiWr c n v))
  case drvhdRd n => exact confined_regRead c n _
  case drvhdWr n v => exact confined_drvhdWr c n v
  case statusRd n => exact confined_statusRd c n
  case commandWr n v => exact confined_commandWr c n v
  case devctlRd n => exact confined_devctlRd c n
  case devctlWr n v => exact confined_devctlWr c n v
  case readSectors => exact confined_readSectors c
  case writeSectors => exact confined_writeSectors c
  case identifyDevice => exact confined_identifyDevice c
  case hdAbortOther op => exact confined_abort c .hd
  case packet => exact confined_packet c
  case identifyPacketDevice => exact confined_identifyPacketDevice c
  case atapiAbortOther op => exact confined_abort c .atapi
  case inquiry => exact confined_inquiry c
  case read10 lba len => exact confined_cdRead c _ _
  case read12 lba len => exact confined_cdRead c _ _
  case pktAbortOther pop => exact confined_abort c .atapi

/-- Settles O16: every instruction of a channel is confined to it. -/
theorem channelsDoNotInterfere : Obligations.ChannelsDoNotInterfere :=
  fun _ s _ _ ch hi hc => exec_confined hi s ch hc

end Sys2Proof.Machine
end

section
/-! What the register accesses answer (40_controller_ports.md R102 to R121, R125, R126): the task file but the data port
and the command register, the control port's read, and the ports outside the map. -/

namespace Sys2Proof.Machine

/-! ### Selection -/

/-- Settles O23: the selection bit, then whether the master is there. -/
theorem driveSelectionTable : Obligations.DriveSelectionTable := by
  intro s c
  unfold State.sel
  obtain ⟨master, slave, devCtl, selected⟩ := s.chan c
  cases selected <;> cases master <;> cases slave <;> rfl

/-- With the master selected and present, it is reached (40_controller_ports.md R102). -/
theorem State.sel_of_master {s : State} {c : Chan} {d : Drive} (hp : (s.chan c).primarySelected = true)
    (hm : s.driveAt c .master = some d) : s.sel c = some (.master, d) := by
  rw [driveSelectionTable s c, hp, show (s.chan c).master = some d from hm]

/-- With the slave selected and present, it is reached, master or no master (40_controller_ports.md R102, D6). -/
theorem State.sel_of_slave {s : State} {c : Chan} {d : Drive} (hp : (s.chan c).primarySelected = false)
    (hm : s.driveAt c .slave = some d) : s.sel c = some (.slave, d) := by
  rw [driveSelectionTable s c, hp, show (s.chan c).slave = some d from hm]

/-! ### What an access of an admitted size answers -/

section Admitted

variable {s : State} {c : Chan} {n : Nat} (hn : admittedSize n = true)
include hn

theorem regRead_of_none (hs : s.sel c = none) (reg : Drive → Byte) : regRead c n reg s = .next (s.reply 0) := by
  rw [regRead, whenAdmitted_next hn, hs]

theorem regRead_of_sel {sl : Slot} {d : Drive} (hs : s.sel c = some (sl, d)) (reg : Drive → Byte) :
    regRead c n reg s = .next (s.reply ((reg d).setWidth 32)) := by
  rw [regRead, whenAdmitted_next hn, hs]

theorem regWrite_of_none (hs : s.sel c = none) (v : Dword) (put : Byte → Drive → Drive) :
    regWrite c n v put s = .next s := by
  rw [regWrite, whenAdmitted_next hn, hs]

theorem regWrite_of_sel {sl : Slot} {d : Drive} (hs : s.sel c = some (sl, d)) (v : Dword)
    (put : Byte → Drive → Drive) :
    regWrite c n v put s = .next (s.setDrive c sl (put (valueByte v) d)) := by
  rw [regWrite, whenAdmitted_next hn, hs]

theorem execStatusRd_of_none (hs : s.sel c = none) : execStatusRd c n s = .next (s.reply 0) := by
  rw [execStatusRd, whenAdmitted_next hn, hs]

theorem execStatusRd_of_sel {sl : Slot} {d : Drive} (hs : s.sel c = some (sl, d)) :
    execStatusRd c n s = .next ((s.emit (.account d.kind c 7 .read)).reply (d.status.setWidth 32)) := by
  rw [execStatusRd, whenAdmitted_next hn, hs]

theorem execDrvhdWr_of_none {v : Dword} (hs : (s.select c (valueByte v)).sel c = none) :
    execDrvhdWr c n v s = .next (s.select c (valueByte v)) := by
  simp only [execDrvhdWr, whenAdmitted_next hn, hs]

theorem execDrvhdWr_of_sel {v : Dword} {sl : Slot} {d : Drive}
    (hs : (s.select c (valueByte v)).sel c = some (sl, d)) :
    execDrvhdWr c n v s =
      .next ((s.select c (valueByte v)).setDrive c sl { d with driveHead := valueByte v }) := by
  simp only [execDrvhdWr, whenAdmitted_next hn, hs]

end Admitted

/-- Settles O24: the five reads are one register read. -/
theorem registerReadsReturnTheRegister : Obligations.RegisterReadsReturnTheRegister := by
  intro s c n hn got
  have hread : ∀ reg, regRead c n reg s = .next { s with reads := got reg :: s.reads } := by
    intro reg
    cases hs : s.sel c with
    | none => simp only [got, hs, regRead_of_none hn hs, State.reply]
    | some p => simp only [got, hs, regRead_of_sel hn hs, State.reply]
  exact ⟨hread _, hread _, hread _, hread _, hread _⟩

/-- Settles O25: a register read, and the status read with its accounting event. -/
theorem errorAndStatusReads : Obligations.ErrorAndStatusReads := by
  intro s c n hn
  exact ⟨fun hs => ⟨regRead_of_none hn hs _, execStatusRd_of_none hn hs⟩,
    fun sl d hs => ⟨regRead_of_sel hn hs _, execStatusRd_of_sel hn hs⟩⟩

/-- Settles O26: the four writes are one register write. -/
theorem registerWritesReachTheSelectedDrive : Obligations.RegisterWritesReachTheSelectedDrive := by
  intro s c n v hn b put
  have hwrite : ∀ f : Byte → Drive → Drive, regWrite c n v f s = .next (put (f b)) := by
    intro f
    cases hs : s.sel c with
    | none => simp only [put, hs, regWrite_of_none hn hs]
    | some p => simp only [put, hs, regWrite_of_sel hn hs]; rfl
  exact ⟨hwrite fun b d => { d with sectorCount := b }, hwrite fun b d => { d with sectorNumber := b },
    hwrite fun b d => { d with cylLow := b }, hwrite fun b d => { d with cylHigh := b }⟩

/-- Settles O27: past the size check nothing is done. -/
theorem precompensationWriteIgnored : Obligations.PrecompensationWriteIgnored :=
  fun s _ _ _ hn => whenAdmitted_next hn (.next s)

/-- Settles O28: past the size check a read replies 0 and a write does nothing. -/
theorem unmappedPortsReadZeroIgnoreWrites : Obligations.UnmappedPortsReadZeroIgnoreWrites :=
  fun s _ _ _ hn => ⟨whenAdmitted_next hn (.next (s.reply 0)), whenAdmitted_next hn (.next s)⟩

/-- Settles O35: past the size check the stored byte is replied, without a look at the drives. -/
theorem deviceControlReadReturnsTheStoredByte : Obligations.DeviceControlReadReturnsTheStoredByte :=
  fun s c _ hn => whenAdmitted_next hn (.next (s.reply ((s.chan c).devCtl.setWidth 32)))

/-- Settles O29: the selection, then the drive it leads to. -/
theorem driveHeadWriteSelectsFirst : Obligations.DriveHeadWriteSelectsFirst := by
  intro s c n v hn s1
  have hsel : s.select c (valueByte v) = s1 := by rw [State.select, selectsMaster_valueByte]
  cases hs : s1.sel c with
  | none => exact (execDrvhdWr_of_none hn (hsel ▸ hs)).trans (by rw [hsel])
  | some p => exact (execDrvhdWr_of_sel hn (hsel ▸ hs)).trans (by rw [hsel]; rfl)

end Sys2Proof.Machine
end

section
/-! The size check (40_controller_ports.md R101, 60_exceptions.md R269): which instructions fault with BadAccessSize. -/

namespace Sys2Proof.Machine

theorem admittedSize_eq_false {n : Nat} : admittedSize n = false ↔ n ≠ 1 ∧ n ≠ 2 ∧ n ≠ 4 := by
  simp [admittedSize, and_assoc]

/-- An access faults with BadAccessSize exactly if its size is not admitted, when what it runs never does. -/
theorem whenAdmitted_eq_badAccessSize {n : Nat} {r : Result} (hr : r ≠ .fault .badAccessSize) :
    whenAdmitted n r = .fault .badAccessSize ↔ n ≠ 1 ∧ n ≠ 2 ∧ n ≠ 4 := by
  rw [← admittedSize_eq_false]
  cases hn : admittedSize n with
  | true => simp [whenAdmitted_next hn, hr]
  | false => simp [whenAdmitted, hn]

/-- A command faults with no BadAccessSize if what it runs on the selected drive does not. -/
theorem onBackend_ne_badAccessSize {c : Chan} {k : Kind} {s : State} {run : Slot → Drive → Result}
    (hr : ∀ sl d, run sl d ≠ .fault .badAccessSize) : onBackend c k s run ≠ .fault .badAccessSize := by
  unfold onBackend
  split
  · nofun
  · split
    · exact hr _ _
    · nofun

theorem hdReadAccess_ne_badAccessSize (c : Chan) (sl : Slot) (d : Drive) (m : Memory) (s : State) :
    hdReadAccess c sl d m s ≠ .fault .badAccessSize := by
  unfold hdReadAccess
  split
  · nofun
  · nofun
  · split <;> nofun

theorem hdWriteAccess_ne_badAccessSize (c : Chan) (sl : Slot) (d : Drive) (m : Memory) (s : State) :
    hdWriteAccess c sl d m s ≠ .fault .badAccessSize := by
  unfold hdWriteAccess
  split
  · nofun
  · nofun
  · split <;> nofun

theorem cdReadAccess_ne_badAccessSize (c : Chan) (sl : Slot) (d : Drive) (m : Memory) (lba n : Nat) (s : State) :
    cdReadAccess c sl d m lba n s ≠ .fault .badAccessSize := by
  unfold cdReadAccess
  split
  · nofun
  · nofun
  · dsimp only
    split <;> nofun

theorem execReadSectors_ne_badAccessSize (c : Chan) (s : State) : execReadSectors c s ≠ .fault .badAccessSize := by
  refine onBackend_ne_badAccessSize fun sl d => ?_
  split
  · nofun
  · nofun
  · split
    · nofun
    · exact hdReadAccess_ne_badAccessSize c sl d _ s

theorem execWriteSectors_ne_badAccessSize (c : Chan) (s : State) : execWriteSectors c s ≠ .fault .badAccessSize := by
  refine onBackend_ne_badAccessSize fun sl d => ?_
  split
  · nofun
  · nofun
  · split
    · nofun
    · split
      · nofun
      · exact hdWriteAccess_ne_badAccessSize c sl d _ s

theorem cdRead_ne_badAccessSize (c : Chan) (lba n : Nat) (s : State) : cdRead c lba n s ≠ .fault .badAccessSize := by
  refine onBackend_ne_badAccessSize fun sl d => ?_
  split
  · nofun
  · nofun
  · exact cdReadAccess_ne_badAccessSize c sl d _ lba n s

theorem cdRunPacket_ne_badAccessSize (c : Chan) (p : Vector Byte 12) (s : State) :
    cdRunPacket c p s ≠ .fault .badAccessSize := by
  unfold cdRunPacket
  split
  · exact onBackend_ne_badAccessSize fun _ _ => nofun
  · split
    · exact cdRead_ne_badAccessSize c _ _ s
    · split
      · exact cdRead_ne_badAccessSize c _ _ s
      · exact onBackend_ne_badAccessSize fun _ _ => nofun

theorem execPacket_ne_badAccessSize (c : Chan) (s : State) : execPacket c s ≠ .fault .badAccessSize :=
  onBackend_ne_badAccessSize fun _ _ => cdRunPacket_ne_badAccessSize c _ _

theorem runCommand_ne_badAccessSize (c : Chan) (k : Kind) (op : Byte) (s : State) :
    runCommand c k op s ≠ .fault .badAccessSize := by
  cases k with
  | hd =>
    unfold runCommand hdRunCommand
    dsimp only
    split
    · exact execReadSectors_ne_badAccessSize c s
    · split
      · exact execWriteSectors_ne_badAccessSize c s
      · split
        · exact onBackend_ne_badAccessSize fun _ _ => nofun
        · exact onBackend_ne_badAccessSize fun _ _ => nofun
  | atapi =>
    unfold runCommand cdRunCommand
    dsimp only
    split
    · exact onBackend_ne_badAccessSize fun _ _ => nofun
    · split
      · exact execPacket_ne_badAccessSize c s
      · exact onBackend_ne_badAccessSize fun _ _ => nofun

/-- A port instruction checks its size first; what it then runs raises no BadAccessSize
(40_controller_ports.md R101). -/
theorem exec_eq_whenAdmitted {i : Instr} {n : Nat} (hi : i.accessSize? = some n) (s : State) :
    ∃ r, r ≠ .fault .badAccessSize ∧ exec i s = whenAdmitted n r := by
  cases i <;> cases hi
  case commandWr c v =>
    refine ⟨_, ?_, rfl⟩
    split
    · nofun
    · exact runCommand_ne_badAccessSize _ _ _ _
  all_goals exact ⟨.next _, nofun, rfl⟩

/-- A command has no access size, and never faults with BadAccessSize (60_exceptions.md R269). -/
theorem exec_ne_badAccessSize {i : Instr} (hi : i.accessSize? = none) (s : State) :
    exec i s ≠ .fault .badAccessSize := by
  cases i <;> cases hi
  case readSectors c => exact execReadSectors_ne_badAccessSize c s
  case writeSectors c => exact execWriteSectors_ne_badAccessSize c s
  case packet c => exact execPacket_ne_badAccessSize c s
  case read10 c lba len => exact cdRead_ne_badAccessSize c _ _ s
  case read12 c lba len => exact cdRead_ne_badAccessSize c _ _ s
  all_goals exact onBackend_ne_badAccessSize fun _ _ => nofun

/-- Settles O18: a port instruction by its size check, a command has none. -/
theorem inadmissibleSizeFaults : Obligations.InadmissibleSizeFaults := by
  intro i s
  cases hi : i.accessSize? with
  | none => simp [exec_ne_badAccessSize hi s]
  | some n =>
    obtain ⟨r, hr, he⟩ := exec_eq_whenAdmitted hi s
    rw [he, whenAdmitted_eq_badAccessSize hr]
    simp

end Sys2Proof.Machine
end

section
/-! What the port instructions emit and leave unchanged (40_controller_ports.md R106 to R118, R121, R125, R126,
R138). -/

namespace Sys2Proof.Machine

/-! ### Accounting events -/

theorem events_regRead {c : Chan} {n : Nat} {reg : Drive → Byte} {s t : State} (h : regRead c n reg s = .next t) :
    t.events = s.events := by
  obtain ⟨v, rfl⟩ := regRead_eq_next h
  rfl

theorem events_regWrite {c : Chan} {n : Nat} {v : Dword} {put : Byte → Drive → Drive} {s t : State}
    (h : regWrite c n v put s = .next t) : t.events = s.events := by
  rcases regWrite_eq_next h with ⟨-, rfl⟩ | ⟨sl, d, -, rfl⟩
  · rfl
  · exact State.events_setDrive s c sl _

theorem events_drvhdWr {c : Chan} {n : Nat} {v : Dword} {s t : State} (h : execDrvhdWr c n v s = .next t) :
    t.events = s.events := by
  rcases drvhdWr_eq_next h with rfl | ⟨sl, d, -, rfl⟩ <;> simp

/-- A data read that reaches a drive emits one event (40_controller_ports.md R138, D29). -/
theorem events_dataRd {c : Chan} {n : Nat} {s t : State} (h : execDataRd c n s = .next t) :
    t.events = ((s.sel c).toList.map fun p => Event.account p.2.kind c 0 .read) ++ s.events := by
  obtain ⟨-, h⟩ := whenAdmitted_eq_next h
  cases next_inj h
  cases s.sel c <;> simp

/-- A data write that reaches a drive emits one event (40_controller_ports.md R138, D29). -/
theorem events_dataWr {c : Chan} {n : Nat} {v : Dword} {s t : State} (h : execDataWr c n v s = .next t) :
    t.events = ((s.sel c).toList.map fun p => Event.account p.2.kind c 0 .write) ++ s.events := by
  obtain ⟨-, h⟩ := whenAdmitted_eq_next h
  cases next_inj h
  cases s.sel c <;> simp

/-- A status read that reaches a drive emits one event (40_controller_ports.md R138, D29). -/
theorem events_statusRd {c : Chan} {n : Nat} {s t : State} (h : execStatusRd c n s = .next t) :
    t.events = ((s.sel c).toList.map fun p => Event.account p.2.kind c 7 .read) ++ s.events := by
  obtain ⟨-, h⟩ := whenAdmitted_eq_next h
  cases next_inj h
  cases s.sel c <;> simp

/-- Settles O20: instruction by instruction, each by the lemma of its shape. -/
theorem accountingEvents : Obligations.AccountingEvents := by
  intro i s t n h hi hcmd hctl
  cases i <;> cases hi
  case dataRd c => exact events_dataRd h
  case dataWr c v => exact events_dataWr h
  case errorRd c => exact events_regRead h
  case precompWr c v => exact next_inj (whenAdmitted_eq_next h).2 ▸ rfl
  case seccntRd c => exact events_regRead h
  case seccntWr c v => exact events_regWrite (show execSeccntWr c n v s = _ from h)
  case secnumRd c => exact events_regRead h
  case secnumWr c v => exact events_regWrite (show execSecnumWr c n v s = _ from h)
  case cylloRd c => exact events_regRead h
  case cylloWr c v => exact events_regWrite (show execCylloWr c n v s = _ from h)
  case cylhiRd c => exact events_regRead h
  case cylhiWr c v => exact events_regWrite (show execCylhiWr c n v s = _ from h)
  case drvhdRd c => exact events_regRead h
  case drvhdWr c v => exact events_drvhdWr h
  case statusRd c => exact events_statusRd h
  case commandWr c v => exact absurd rfl (hcmd c n v)
  case devctlRd c => exact next_inj (whenAdmitted_eq_next h).2 ▸ rfl
  case devctlWr c v => exact absurd rfl (hctl c n v)
  case unmappedRd p => exact next_inj (whenAdmitted_eq_next h).2 ▸ rfl
  case unmappedWr p v => exact next_inj (whenAdmitted_eq_next h).2 ▸ rfl

/-! ### The frame of the register accesses -/

/-- The fields of a drive that no register access changes. -/
def Drive.unaddressed (d : Drive) : Kind × Byte × Byte × List Word × Nat × Vector Byte 12 × Media :=
  (d.kind, d.error, d.status, d.buf, d.cur, d.packet, d.media)

/-- What no register access changes, beside what no instruction does (`Static`): the drives but for the registers it
addresses, the guest and the store oracle. -/
structure RegisterFrame (s t : State) : Prop where
  drives : ∀ c sl, (t.driveAt c sl).map Drive.unaddressed = (s.driveAt c sl).map Drive.unaddressed
  guestStalled : t.guestStalled = s.guestStalled
  answers : t.answers = s.answers
  draws : t.draws = s.draws

theorem RegisterFrame.refl (s : State) : RegisterFrame s s := ⟨fun _ _ => rfl, rfl, rfl, rfl⟩

theorem RegisterFrame.trans {s t u : State} (h : RegisterFrame s t) (h' : RegisterFrame t u) : RegisterFrame s u :=
  ⟨fun c sl => (h'.drives c sl).trans (h.drives c sl), h'.guestStalled.trans h.guestStalled,
    h'.answers.trans h.answers, h'.draws.trans h.draws⟩

theorem RegisterFrame.emit (s : State) (e : Event) : RegisterFrame s (s.emit e) := by constructor <;> simp

theorem RegisterFrame.reply (s : State) (v : Dword) : RegisterFrame s (s.reply v) := by constructor <;> simp

theorem RegisterFrame.select (s : State) (c : Chan) (v : Byte) : RegisterFrame s (s.select c v) := by
  constructor <;> simp

/-- Registers of the selected drive written. -/
theorem RegisterFrame.setDrive {s : State} {c : Chan} {sl : Slot} {d d' : Drive} (h : s.sel c = some (sl, d))
    (hd : d'.unaddressed = d.unaddressed) : RegisterFrame s (s.setDrive c sl d') := by
  refine ⟨fun c' sl' => ?_, by simp, by simp, by simp⟩
  rw [State.driveAt_setDrive]
  split
  · rename_i hc
    obtain ⟨rfl, rfl⟩ := hc
    rw [State.driveAt_of_sel h, Option.map_some, Option.map_some, hd]
  · rfl

theorem registerFrame_regRead {c : Chan} {n : Nat} {reg : Drive → Byte} {s t : State}
    (h : regRead c n reg s = .next t) : RegisterFrame s t := by
  obtain ⟨v, rfl⟩ := regRead_eq_next h
  exact .reply s v

theorem registerFrame_regWrite {c : Chan} {n : Nat} {v : Dword} {put : Byte → Drive → Drive} {s t : State}
    (h : regWrite c n v put s = .next t) (hp : ∀ b d, (put b d).unaddressed = d.unaddressed) : RegisterFrame s t := by
  rcases regWrite_eq_next h with ⟨-, rfl⟩ | ⟨sl, d, hs, rfl⟩
  · exact .refl t
  · exact .setDrive hs (hp _ d)

theorem registerFrame_statusRd {c : Chan} {n : Nat} {s t : State} (h : execStatusRd c n s = .next t) :
    RegisterFrame s t := by
  obtain ⟨-, h⟩ := whenAdmitted_eq_next h
  cases next_inj h
  split
  · exact .reply s 0
  · exact (RegisterFrame.emit s _).trans (.reply _ _)

theorem registerFrame_drvhdWr {c : Chan} {n : Nat} {v : Dword} {s t : State} (h : execDrvhdWr c n v s = .next t) :
    RegisterFrame s t := by
  rcases drvhdWr_eq_next h with rfl | ⟨sl, d, hs, rfl⟩
  · exact .select s c _
  · exact (RegisterFrame.select s c _).trans (.setDrive hs rfl)

/-- Every port instruction but the data port, the command register and the device-control write. -/
theorem exec_registerFrame {i : Instr} {s t : State} {n : Nat} (h : exec i s = .next t) (hi : i.accessSize? = some n)
    (hrd : ∀ c n, i ≠ .dataRd c n) (hwr : ∀ c n v, i ≠ .dataWr c n v) (hcmd : ∀ c n v, i ≠ .commandWr c n v)
    (hctl : ∀ c n v, i ≠ .devctlWr c n v) : RegisterFrame s t := by
  cases i <;> cases hi
  case dataRd c => exact absurd rfl (hrd c n)
  case dataWr c v => exact absurd rfl (hwr c n v)
  case errorRd c => exact registerFrame_regRead h
  case precompWr c v => exact next_inj (whenAdmitted_eq_next h).2 ▸ .refl s
  case seccntRd c => exact registerFrame_regRead h
  case seccntWr c v => exact registerFrame_regWrite (show execSeccntWr c n v s = _ from h) fun _ _ => rfl
  case secnumRd c => exact registerFrame_regRead h
  case secnumWr c v => exact registerFrame_regWrite (show execSecnumWr c n v s = _ from h) fun _ _ => rfl
  case cylloRd c => exact registerFrame_regRead h
  case cylloWr c v => exact registerFrame_regWrite (show execCylloWr c n v s = _ from h) fun _ _ => rfl
  case cylhiRd c => exact registerFrame_regRead h
  case cylhiWr c v => exact registerFrame_regWrite (show execCylhiWr c n v s = _ from h) fun _ _ => rfl
  case drvhdRd c => exact registerFrame_regRead h
  case drvhdWr c v => exact registerFrame_drvhdWr h
  case statusRd c => exact registerFrame_statusRd h
  case commandWr c v => exact absurd rfl (hcmd c n v)
  case devctlRd c => exact next_inj (whenAdmitted_eq_next h).2 ▸ .reply s _
  case devctlWr c v => exact absurd rfl (hctl c n v)
  case unmappedRd p => exact next_inj (whenAdmitted_eq_next h).2 ▸ .reply s _
  case unmappedWr p v => exact next_inj (whenAdmitted_eq_next h).2 ▸ .refl s

/-- Settles O21: the frame of every register access, with what no instruction touches and the rules of device control
and selection. -/
theorem registerAccessFrame : Obligations.RegisterAccessFrame := by
  intro i s t n h hi hrd hwr hcmd hctl
  have hf := exec_registerFrame h hi hrd hwr hcmd hctl
  have hst := exec_static h
  refine ⟨hf.drives, fun c => ?_, fun hsel c => ?_, hst.loads, hst.nextLoader, hf.guestStalled, hst.inputs,
    hf.answers, hf.draws, hst.released, hst.cfg⟩
  · rcases exec_devCtl h c with hsame | ⟨n', v, hi', -⟩
    · exact hsame
    · exact absurd hi' (hctl c n' v)
  · rcases exec_primarySelected h c with hsame | ⟨n', v, hi', -⟩
    · exact hsame
    · exact absurd hi' (hsel c n' v)

end Sys2Proof.Machine
end

section
/-! The device-control write (40_controller_ports.md R122 to R124): the byte is stored, and an edge of SRST resets or
readies the drives of the channel. -/

namespace Sys2Proof.Machine

/-- The SRST bit of a written value is its bit 2 (10_state.md R22). -/
theorem srstBit_valueByte (v : Dword) : srstBit (valueByte v) = v.getLsbD 2 := by
  simp [srstBit, valueByte]

section Admitted

variable {s : State} {c : Chan} {n : Nat} {v : Dword} (hn : admittedSize n = true)
include hn

/-- A 0→1 edge of SRST (40_controller_ports.md R123). -/
theorem execDevctlWr_of_assert (h0 : srstBit (s.chan c).devCtl = false) (h1 : srstBit (valueByte v) = true) :
    execDevctlWr c n v s = .next ((s.storeDevCtl c (valueByte v)).resetChannel c) := by
  simp only [execDevctlWr, whenAdmitted_next hn, h0, h1]

/-- A 1→0 edge of SRST (40_controller_ports.md R124). -/
theorem execDevctlWr_of_release (h0 : srstBit (s.chan c).devCtl = true) (h1 : srstBit (valueByte v) = false) :
    execDevctlWr c n v s = .next ((s.storeDevCtl c (valueByte v)).srstRelease c) := by
  simp only [execDevctlWr, whenAdmitted_next hn, h0, h1]

/-- No edge of SRST (40_controller_ports.md R122, D27). -/
theorem execDevctlWr_of_same (h : srstBit (s.chan c).devCtl = srstBit (valueByte v)) :
    execDevctlWr c n v s = .next (s.storeDevCtl c (valueByte v)) := by
  simp only [execDevctlWr, whenAdmitted_next hn, h]
  cases srstBit (valueByte v) <;> rfl

end Admitted

/-- The host's channel reset at the head of the inputs is the next step (44_host_operations.md R234). -/
theorem step_resetChannel (s : State) (c : Chan) :
    step { s with inputs := .resetChannel c :: s.inputs } = .next (s.resetChannel c) := by
  simp only [step, nextInput_host _ _ (fun a => (nofun : Input.resetChannel c ≠ .guest a)), perform, hostReset]

/-- Settles O36: both sides reset the channel of the state that holds the byte. -/
theorem srstAssertIsChannelReset : Obligations.SrstAssertIsChannelReset := by
  intro s c n v hn h0 h1 stored
  have hexec : exec (.devctlWr c n v) s = .next (stored.resetChannel c) :=
    execDevctlWr_of_assert hn h0 ((srstBit_valueByte v).trans h1)
  refine ⟨?_, stored.resetChannel c, hexec, ?_, fun c' sl => ?_⟩
  · rw [hexec, ← step_resetChannel, show stored.inputs = s.inputs from State.inputs_setChan s c _]
  · rw [((State.frame_resetChannel stored c).1 c).1, State.chan_setChan_same]
  · rw [State.driveAt_resetChannel]
    exact congrArg (fun o => if c' = c then Option.map Drive.backendReset o else o)
      (State.driveAt_storeDevCtl s c c' (valueByte v) sl)

/-- Settles O37: the byte stored and then every drive readied is one update of the channel, and the status update is
the mask 0x7F and then the bit 0x40. -/
theorem srstReleaseReadiesEveryDrive : Obligations.SrstReleaseReadiesEveryDrive := by
  intro s c n v hn h0 h1 ready
  refine (execDevctlWr_of_release hn h0 ((srstBit_valueByte v).trans h1)).trans ?_
  rw [State.srstRelease, State.storeDevCtl, State.chan_setChan_same, State.setChan_setChan]
  rfl

/-- Settles O38: without an edge the byte is stored. -/
theorem deviceControlWriteWithoutEdge : Obligations.DeviceControlWriteWithoutEdge :=
  fun _ _ _ v hn h => execDevctlWr_of_same hn (h.trans (srstBit_valueByte v).symm)

end Sys2Proof.Machine
end

section
/-! The command register (40_controller_ports.md R119, R120, R127): a command write runs the command decoded for the
selected drive, and touches no other drive. -/

namespace Sys2Proof.Machine

/-- A command byte decoded for a backend runs as the backend's dispatch runs it (40_controller_ports.md R120). -/
theorem exec_decodeCommand (k : Kind) (c : Chan) (op : Byte) (s : State) :
    exec (decodeCommand k c op) s = runCommand c k op s := by
  cases k with
  | hd =>
    simp only [decodeCommand, decodeHdCommand, runCommand, hdRunCommand]
    split_ifs <;> rfl
  | atapi =>
    simp only [decodeCommand, decodeCdCommand, runCommand, cdRunCommand]
    split_ifs <;> rfl

theorem exec_commandWr_of_none {s : State} {c : Chan} {n : Nat} (hn : admittedSize n = true) (hs : s.sel c = none)
    (v : Dword) : exec (.commandWr c n v) s = .next (s.emit (.commandNoDrive c)) := by
  simp only [exec, execCommandWr, whenAdmitted_next hn, hs]

/-- A command write that reaches a drive (40_controller_ports.md R119, R138). -/
theorem exec_commandWr_of_sel {s : State} {c : Chan} {n : Nat} {sl : Slot} {d : Drive} (hn : admittedSize n = true)
    (hs : s.sel c = some (sl, d)) (v : Dword) :
    exec (.commandWr c n v) s =
      exec (decodeCommand d.kind c (valueByte v)) (s.emit (.account d.kind c 7 .write)) := by
  rw [exec_decodeCommand]
  simp only [exec, execCommandWr, whenAdmitted_next hn, hs]

/-- Settles O6: by whether the write reaches a drive. -/
theorem commandWriteRunsTheDecodedCommand : Obligations.CommandWriteRunsTheDecodedCommand := by
  intro s c n v hn
  cases hs : s.sel c with
  | none => exact exec_commandWr_of_none hn hs v
  | some p => exact exec_commandWr_of_sel hn hs v

/-! ### The selected drive and the other -/

/-- An effect on the selected drive leaves the other slot of the channel alone. -/
theorem Effect.driveAt_other {c : Chan} {s t : State} {sl sl' : Slot} {d : Drive} (h : Effect c s t)
    (hs : s.sel c = some (sl, d)) (hne : sl' ≠ sl) : t.driveAt c sl' = s.driveAt c sl' := by
  rcases h.2 with hq | ⟨sl₁, d₁, d', hs', -, hq⟩
  · rw [State.driveAt, hq c, State.driveAt]
  · cases hs.symm.trans hs'
    rw [State.driveAt, hq c, ← State.driveAt, State.driveAt_setDrive, if_neg fun h => hne h.2]

/-- A Drive/Head write that selects a drive, and the command after it, leave the other slot alone. -/
theorem commandWr_drvhdWr_driveAt_other {s u : State} {c : Chan} {n : Nat} {b : Byte} {w : Dword} {sl sl' : Slot}
    {d d' : Drive} (hsel : (s.select c b).sel c = some (sl, d)) (hne : sl' ≠ sl)
    (h : exec (.commandWr c n w) ((s.select c b).setDrive c sl d') = .next u) : u.driveAt c sl' = s.driveAt c sl' := by
  have heffect : Effect c ((s.select c b).setDrive c sl d') u := effect_commandWr h
  rw [heffect.driveAt_other (State.sel_setDrive hsel d') hne, State.driveAt_setDrive, if_neg fun h => hne h.2,
    State.driveAt_select]

/-- Settles O30: bit 4 decides which present drive is selected, and the command changes that one alone. -/
theorem selectionRoutesTheNextCommand : Obligations.SelectionRoutesTheNextCommand := by
  intro s c n n' v w d0 d1 hn _ hmaster hslave
  have hbit : ((s.select c (valueByte v)).chan c).primarySelected = !v.getLsbD 4 := by
    rw [State.primarySelected_select_same, selectsMaster_valueByte]
  have h0 : (s.select c (valueByte v)).driveAt c .master = some d0 := (State.driveAt_select ..).trans hmaster
  have h1 : (s.select c (valueByte v)).driveAt c .slave = some d1 := (State.driveAt_select ..).trans hslave
  cases hv : v.getLsbD 4 with
  | false =>
    have hsel := State.sel_of_master (hbit.trans (by rw [hv]; rfl)) h0
    exact ⟨_, execDrvhdWr_of_sel hn hsel, fun _ => ⟨State.sel_setDrive hsel _, fun u hu =>
      (commandWr_drvhdWr_driveAt_other hsel (sl' := .slave) nofun hu).trans hslave⟩, nofun⟩
  | true =>
    have hsel := State.sel_of_slave (hbit.trans (by rw [hv]; rfl)) h1
    exact ⟨_, execDrvhdWr_of_sel hn hsel, nofun, fun _ => ⟨State.sel_setDrive hsel _, fun u hu =>
      (commandWr_drvhdWr_driveAt_other hsel (sl' := .master) nofun hu).trans hmaster⟩⟩

/-! ### Commands that reach no medium -/

section Selected

variable {s : State} {c : Chan} {sl : Slot} {d : Drive} (hs : s.sel c = some (sl, d))
include hs

/-- IDENTIFY_DEVICE on a hard disk (42_hard_disk.md R164). -/
theorem exec_identifyDevice_of_sel (hk : d.kind = .hd) :
    exec (.identifyDevice c) s = .next (s.setDrive c sl (d.succeedWith s.cfg.hdIdentify.toList)) :=
  onBackend_of_sel hs hk _

/-- IDENTIFY_PACKET_DEVICE on an optical drive (43_atapi.md R192). -/
theorem exec_identifyPacketDevice_of_sel (hk : d.kind = .atapi) :
    exec (.identifyPacketDevice c) s = .next (s.setDrive c sl (d.succeedWith s.cfg.cdIdentify.toList)) :=
  onBackend_of_sel hs hk _

/-- The default row of a hard disk (42_hard_disk.md R165). -/
theorem exec_hdAbortOther_of_sel (hk : d.kind = .hd) (op : Byte) :
    exec (.hdAbortOther c op) s = .next (s.setDrive c sl (d.fail s.cfg .aborted)) :=
  onBackend_of_sel hs hk _

/-- The default row of an optical drive's commands (43_atapi.md R200). -/
theorem exec_atapiAbortOther_of_sel (hk : d.kind = .atapi) (op : Byte) :
    exec (.atapiAbortOther c op) s = .next (s.setDrive c sl (d.fail s.cfg .aborted)) :=
  onBackend_of_sel hs hk _

end Selected

/-- Settles O40: the command byte decodes to the identify row or to the default row of the drive's backend. -/
theorem commandWriteCompletes : Obligations.CommandWriteCompletes := by
  intro s c n v sl d hn hs op after aborted
  have hrun : exec (.commandWr c n v) s = exec (decodeCommand d.kind c op) (s.emit (.account d.kind c 7 .write)) :=
    exec_commandWr_of_sel hn hs v
  have hs' : (s.emit (.account d.kind c 7 .write)).sel c = some (sl, d) := (State.sel_emit ..).trans hs
  refine ⟨fun hk hop => ?_, fun hk h20 h30 hEC => ?_, fun hk hop => ?_, fun hk hA0 hA1 => ?_⟩
  · have hdec : decodeCommand d.kind c op = .identifyDevice c := by rw [hk, hop]; rfl
    rw [hrun, hdec]
    exact exec_identifyDevice_of_sel hs' hk
  · have hdec : decodeCommand d.kind c op = .hdAbortOther c op := by
      rw [hk]
      exact decodeHdCommand_other c (by simpa [Instr.wellFormed, and_assoc] using ⟨h20, h30, hEC⟩)
    rw [hrun, hdec]
    exact exec_hdAbortOther_of_sel hs' hk op
  · have hdec : decodeCommand d.kind c op = .identifyPacketDevice c := by rw [hk, hop]; rfl
    rw [hrun, hdec]
    exact exec_identifyPacketDevice_of_sel hs' hk
  · have hdec : decodeCommand d.kind c op = .atapiAbortOther c op := by
      rw [hk]
      exact decodeCdCommand_other c (by simpa [Instr.wellFormed] using ⟨hA0, hA1⟩)
    rw [hrun, hdec]
    exact exec_atapiAbortOther_of_sel hs' hk op

end Sys2Proof.Machine
end

section
/-! READ_SECTORS and WRITE_SECTORS on a selected hard disk (42_hard_disk.md R162, R163, R166 to R168), case by case, and
the command writes that run them. -/

namespace Sys2Proof.Machine

/-- A drive after a command that stages data, field by field (42_hard_disk.md R162, 43_atapi.md R195, R198). -/
theorem Drive.succeedWith_eq (d : Drive) (ws : List Word) :
    d.succeedWith ws = { d with buf := ws, cur := 0, status := 0x48, error := 0x00 } := rfl

/-! ### Bytes of a sector -/

/-- Word `i` of bytes read from a store, low byte first (20_memory.md R53). -/
theorem getElem?_words_readBytes (m : Memory) (off : Nat) {n i : Nat} (h : 2 * i + 1 < n) :
    (words (m.readBytes off n))[i]? = some (m.byteAt (off + 2 * i + 1) ++ m.byteAt (off + 2 * i)) := by
  rw [getElem?_words _ _ (by simpa using h), Memory.getD_readBytes _ _ _ _ (by omega),
    Memory.getD_readBytes _ _ _ _ h]
  rfl

/-- A sector that starts inside a store of whole sectors ends inside it (20_memory.md R56). -/
theorem Drive.hdOffset_add_le {d : Drive} {m : Memory} (hlen : m.len % 512 = 0) (hlt : d.hdOffset < m.len) :
    d.hdOffset + 512 ≤ m.len := by
  rw [Drive.hdOffset_eq] at *
  omega

/-- A byte of a written buffer, low byte of a word first (20_memory.md R53, R58). -/
theorem Memory.byteAt_writeBytes_bytesOf {m : Memory} (h : m.wf = true) {off i : Nat} {ws : List Word}
    (hb : off + 2 * ws.length ≤ m.len) (hi : i < 2 * ws.length) :
    (m.writeBytes off (bytesOf ws)).byteAt (off + i) = (ws.getD (i / 2) 0).extractLsb' (8 * (i % 2)) 8 := by
  rw [Memory.byteAt_writeBytes h off _ _ (by rwa [length_bytesOf]), length_bytesOf, if_pos (by omega),
    Nat.add_sub_cancel_left, getD_bytesOf]

/-- A byte outside a written buffer stays (20_memory.md R58). -/
theorem Memory.byteAt_writeBytes_bytesOf_outside {m : Memory} (h : m.wf = true) {off a : Nat} {ws : List Word}
    (hb : off + 2 * ws.length ≤ m.len) (ha : a < off ∨ off + 2 * ws.length ≤ a) :
    (m.writeBytes off (bytesOf ws)).byteAt a = m.byteAt a := by
  rw [Memory.byteAt_writeBytes h off _ _ (by rwa [length_bytesOf]), length_bytesOf, if_neg (by omega)]

/-! ### The outcomes in their order -/

section Selected

variable {s : State} {c : Chan} {sl : Slot} {d : Drive} (hs : s.sel c = some (sl, d)) (hk : d.kind = .hd)
include hs hk

/-- With no store attached READ_SECTORS aborts (42_hard_disk.md R166). -/
theorem execReadSectors_of_no_store (hm : d.media = .unattached ∨ d.media = .loading) :
    execReadSectors c s = .next (s.setDrive c sl (d.fail s.cfg .aborted)) := by
  rw [execReadSectors, onBackend_of_sel hs hk]
  rcases hm with hm | hm <;> simp only [hm]

/-- With no store attached WRITE_SECTORS aborts (42_hard_disk.md R166). -/
theorem execWriteSectors_of_no_store (hm : d.media = .unattached ∨ d.media = .loading) :
    execWriteSectors c s = .next (s.setDrive c sl (d.fail s.cfg .aborted)) := by
  rw [execWriteSectors, onBackend_of_sel hs hk]
  rcases hm with hm | hm <;> simp only [hm]

variable {m : Memory} (hm : d.media = .attached m)
include hm

/-- Past the end of the store READ_SECTORS finds no sector (42_hard_disk.md R168). -/
theorem execReadSectors_of_le (hle : m.len ≤ d.hdOffset) :
    execReadSectors c s = .next (s.setDrive c sl (d.fail s.cfg .idNotFound)) := by
  rw [execReadSectors, onBackend_of_sel hs hk]
  simp only [hm]
  rw [if_pos hle]

/-- Past the end of the store WRITE_SECTORS finds no sector (42_hard_disk.md R168). -/
theorem execWriteSectors_of_le (hle : m.len ≤ d.hdOffset) :
    execWriteSectors c s = .next (s.setDrive c sl (d.fail s.cfg .idNotFound)) := by
  rw [execWriteSectors, onBackend_of_sel hs hk]
  simp only [hm]
  rw [if_pos hle]

variable (hlt : d.hdOffset < m.len)
include hlt

/-- Without a buffer of one sector WRITE_SECTORS aborts (42_hard_disk.md R163, D20, D37). -/
theorem execWriteSectors_of_length_ne (hbuf : d.buf.length ≠ 256) :
    execWriteSectors c s = .next (s.setDrive c sl (d.fail s.cfg .aborted)) := by
  rw [execWriteSectors, onBackend_of_sel hs hk]
  simp only [hm]
  rw [if_neg (by omega), if_pos (show d.buf.length ≠ hdBufferWords from hbuf)]

variable (hlen : m.len % 512 = 0) (hans : s.nextAnswer = .ok)
include hlen hans

/-- READ_SECTORS stages the sector (42_hard_disk.md R162). -/
theorem execReadSectors_of_ok :
    execReadSectors c s =
      .next (s.afterDraw.setDrive c sl (d.succeedWith (words (m.readBytes d.hdOffset 512)))) := by
  have hfit : d.hdOffset + hdSector ≤ m.len := Drive.hdOffset_add_le hlen hlt
  simp only [execReadSectors_of_lt hs hk hm hlt, hdReadAccess, hans, if_pos hfit]
  rfl

/-- WRITE_SECTORS stores the buffer and keeps it (42_hard_disk.md R163). -/
theorem execWriteSectors_of_ok (hbuf : d.buf.length = 256) :
    execWriteSectors c s =
      .next (s.afterDraw.setDrive c sl
        { d.writeDone with media := .attached (m.writeBytes d.hdOffset (bytesOf d.buf)) }) := by
  have hfit : d.hdOffset + hdSector ≤ m.len := Drive.hdOffset_add_le hlen hlt
  simp only [execWriteSectors_of_lt hs hk hm hlt hbuf, hdWriteAccess, hans, if_pos hfit]

end Selected

/-! ### The command writes -/

/-- Settles O57: the byte decodes to READ_SECTORS or WRITE_SECTORS, run on the state that has counted the access. -/
theorem sectorCommandWritesComplete : Obligations.SectorCommandWritesComplete := by
  intro s c n v sl d hn hsel hk op counted failed off
  have hs : counted.sel c = some (sl, d) := (State.sel_emit ..).trans hsel
  have hoff : d.hdOffset = off := Drive.hdOffset_eq d
  have hrun : exec (.commandWr c n v) s = exec (decodeCommand .hd c op) counted := by
    rw [exec_commandWr_of_sel hn hsel v, hk]; rfl
  have hread : op = 0x20 → exec (.commandWr c n v) s = execReadSectors c counted := fun hop => by
    rw [hrun, hop]; rfl
  have hwrite : op = 0x30 → exec (.commandWr c n v) s = execWriteSectors c counted := fun hop => by
    rw [hrun, hop]; rfl
  refine ⟨?_, fun m hm => ⟨?_, fun hop hlt hbuf => ?_, fun hop hlt hlen hans => ?_,
    fun hop hlt hlen hwf hbuf hans => ?_⟩⟩
  · rintro (hop | hop) hm
    · exact (hread hop).trans (execReadSectors_of_no_store hs hk hm)
    · exact (hwrite hop).trans (execWriteSectors_of_no_store hs hk hm)
  · rintro (hop | hop) hle
    · exact (hread hop).trans (execReadSectors_of_le hs hk hm (hoff ▸ hle))
    · exact (hwrite hop).trans (execWriteSectors_of_le hs hk hm (hoff ▸ hle))
  · exact (hwrite hop).trans (execWriteSectors_of_length_ne hs hk hm (hoff ▸ hlt) hbuf)
  · rw [← hoff] at hlt ⊢
    refine ⟨words (m.readBytes d.hdOffset 512), ?_, ?_, fun i hi => ?_⟩
    · rw [hread hop, execReadSectors_of_ok hs hk hm hlt hlen hans, Drive.succeedWith_eq]
    · simp [length_words]
    · exact getElem?_words_readBytes m _ (by omega)
  · rw [← hoff] at hlt ⊢
    have hfit : d.hdOffset + 2 * d.buf.length ≤ m.len := hbuf ▸ Drive.hdOffset_add_le hlen hlt
    refine ⟨_, (hwrite hop).trans (execWriteSectors_of_ok hs hk hm hlt hlen hans hbuf), Memory.len_writeBytes ..,
      ?_, ?_⟩
    · exact fun a ha => Memory.byteAt_writeBytes_bytesOf_outside hwf hfit (by omega)
    · exact fun i hi => Memory.byteAt_writeBytes_bytesOf hwf hfit (by omega)

end Sys2Proof.Machine
end

section
/-! PACKET and the packet commands on a selected optical drive (43_atapi.md R193 to R202), case by case, and the command
write that runs them. -/

namespace Sys2Proof.Machine

/-! ### Operands (30_encoding.md R82) -/

/-- A byte joined below bits shifts them by 256. -/
theorem toNat_append_byte {w : Nat} (x : BitVec w) (b : Byte) : (x ++ b).toNat = x.toNat * 256 + b.toNat := by
  rw [BitVec.toNat_append, ← Nat.shiftLeft_add_eq_or_of_lt b.isLt, Nat.shiftLeft_eq]

/-- The length field of READ(10) as a number, most significant byte first (30_encoding.md R76). -/
theorem toNat_packetLen10 (p : Vector Byte 12) : (packetLen10 p).toNat = p[7].toNat * 256 + p[8].toNat :=
  toNat_append_byte p[7] p[8]

/-- The length field of READ(12) as a number, most significant byte first (30_encoding.md R77). -/
theorem toNat_packetLen12 (p : Vector Byte 12) : (packetLen12 p).toNat = p[6].toNat * 256 + p[7].toNat :=
  toNat_append_byte p[6] p[7]

/-- The start sector as a number, most significant byte first (30_encoding.md R82). -/
theorem toNat_packetLba (p : Vector Byte 12) :
    (packetLba p).toNat = p[2].toNat * 2 ^ 24 + p[3].toNat * 2 ^ 16 + p[4].toNat * 2 ^ 8 + p[5].toNat := by
  rw [packetLba, bigEndian32, toNat_append_byte, toNat_append_byte, toNat_append_byte]
  omega

/-- A length field of 0 means one sector (30_encoding.md R82). -/
theorem sectorsOf_eq (len : BitVec 16) : sectorsOf len = if len.toNat = 0 then 1 else len.toNat := by
  unfold sectorsOf
  exact if_congr (by rw [← BitVec.toNat_inj]; rfl) rfl rfl

/-! ### The state beside a stored drive -/

theorem State.nextAnswer_setDrive (s : State) (c : Chan) (sl : Slot) (d : Drive) :
    (s.setDrive c sl d).nextAnswer = s.nextAnswer :=
  State.nextAnswer_setChan s c _

/-- An answered store access and a drive stored commute. -/
theorem State.afterDraw_setDrive (s : State) (c : Chan) (sl : Slot) (d : Drive) :
    (s.setDrive c sl d).afterDraw = s.afterDraw.setDrive c sl d := by
  cases c <;> rfl

/-! ### The packet commands -/

/-- A packet decoded runs as the packet dispatch runs it (43_atapi.md R194). -/
theorem exec_decodePacket (c : Chan) (p : Vector Byte 12) (s : State) :
    exec (decodePacket c p) s = cdRunPacket c p s := by
  simp only [decodePacket, cdRunPacket]
  split_ifs <;> rfl

section Selected

variable {s : State} {c : Chan} {sl : Slot} {d : Drive} (hs : s.sel c = some (sl, d)) (hk : d.kind = .atapi)
include hs hk

/-- PACKET fills the packet area and runs the packet (43_atapi.md R193, D22). -/
theorem exec_packet_of_sel :
    exec (.packet c) s =
      exec (decodePacket c (packetOfBuffer d.buf)) (s.setDrive c sl { d with packet := packetOfBuffer d.buf }) := by
  rw [exec_decodePacket]
  exact onBackend_of_sel hs hk _

/-- INQUIRY stages the response (43_atapi.md R195). -/
theorem exec_inquiry_of_sel :
    exec (.inquiry c) s = .next (s.setDrive c sl (d.succeedWith (words s.cfg.inquiryData.toList))) :=
  onBackend_of_sel hs hk _

/-- The default row of the packet commands (43_atapi.md R199). -/
theorem exec_pktAbortOther_of_sel (pop : Byte) :
    exec (.pktAbortOther c pop) s = .next (s.setDrive c sl (d.fail s.cfg .aborted)) :=
  onBackend_of_sel hs hk _

/-- With no image a packet READ aborts (43_atapi.md R198, R201). -/
theorem cdRead_of_no_image (hm : d.media = .unattached ∨ d.media = .loading) (lba n : Nat) :
    cdRead c lba n s = .next (s.setDrive c sl (d.fail s.cfg .aborted)) := by
  rw [cdRead, onBackend_of_sel hs hk]
  rcases hm with hm | hm <;> simp only [hm]

variable {m : Memory} (hm : d.media = .attached m)
include hm

/-- With an image a packet READ goes to its stream access (43_atapi.md R198). -/
theorem cdRead_of_attached (lba n : Nat) : cdRead c lba n s = cdReadAccess c sl d m lba n s := by
  rw [cdRead, onBackend_of_sel hs hk]
  simp only [hm]

/-- An I/O fault of the stream fails a packet READ with BadBlock (43_atapi.md R202). -/
theorem cdRead_of_ioFault (hans : s.nextAnswer = .ioFault) (lba n : Nat) :
    cdRead c lba n s = .next (s.afterDraw.setDrive c sl (d.fail s.cfg .badBlock)) := by
  simp only [cdRead_of_attached hs hk hm, cdReadAccess, hans]

variable (hans : s.nextAnswer = .ok) {lba n : Nat}
include hans

/-- A packet READ past the end of the image fails with Uncorrectable (43_atapi.md R202). -/
theorem cdRead_of_past_end (hn : 0 < n) (hend : m.len < lba * 2048 + n * 2048) :
    cdRead c lba n s = .next (s.afterDraw.setDrive c sl (d.fail s.cfg .uncorrectable)) := by
  have hshort : (m.readClipped (lba * cdSector) (n * cdSector)).length < n * cdSector := by
    rw [Memory.length_readClipped, cdSector]
    omega
  simp only [cdRead_of_attached hs hk hm, cdReadAccess, hans, if_pos hshort]

/-- A packet READ within the image stages its sectors (43_atapi.md R198). -/
theorem cdRead_of_within (hend : lba * 2048 + n * 2048 ≤ m.len) :
    cdRead c lba n s =
      .next (s.afterDraw.setDrive c sl (d.succeedWith (words (m.readBytes (lba * 2048) (n * 2048))))) := by
  have hbytes : m.readClipped (lba * cdSector) (n * cdSector) = m.readBytes (lba * 2048) (n * 2048) :=
    Memory.readClipped_within m hend
  have hlong : ¬ (m.readBytes (lba * 2048) (n * 2048)).length < n * cdSector := by
    rw [Memory.length_readBytes, cdSector]
    omega
  simp only [cdRead_of_attached hs hk hm, cdReadAccess, hans, hbytes, if_neg hlong]

end Selected

/-- A packet of either READ opcode is `cdRead` with the operands of its bytes (43_atapi.md R196, R197). -/
theorem exec_decodePacket_read {p : Vector Byte 12} (hp : p[0] = 0x28 ∨ p[0] = 0xA8) (c : Chan) (s : State) :
    exec (decodePacket c p) s =
      cdRead c (packetLba p).toNat (sectorsOf (if p[0] = 0x28 then packetLen10 p else packetLen12 p)) s := by
  rcases hp with hp | hp
  · rw [decodePacket_read10 c hp, if_pos hp]
    rfl
  · rw [decodePacket_read12 c hp, if_neg (by simp [hp])]
    rfl

/-- Settles O58: PACKET on the state that has counted the access, packet opcode by packet opcode, and a READ outcome by
outcome. -/
theorem packetCommandWriteCompletes : Obligations.PacketCommandWriteCompletes := by
  intro s c n v sl d hn hsel hk hop p counted failed staged n0 count off
  have hcounted : counted.sel c = some (sl, d) := (State.sel_emit ..).trans hsel
  have hs : (counted.setDrive c sl { d with packet := p }).sel c = some (sl, { d with packet := p }) :=
    State.sel_setDrive hcounted _
  have hrun : exec (.commandWr c n v) s = exec (decodePacket c p) (counted.setDrive c sl { d with packet := p }) := by
    have hdec : decodeCommand d.kind c (valueByte v) = .packet c := by
      rw [hk, show valueByte v = 0xA0 from hop]; rfl
    have hwrite := exec_commandWr_of_sel hn hsel v
    rw [hdec, hk] at hwrite
    exact hwrite.trans (exec_packet_of_sel hcounted hk)
  refine ⟨fun hp => ?_, fun h12 h28 hA8 => ?_, fun hp => ?_⟩
  · rw [hrun, show decodePacket c p = .inquiry c by rw [decodePacket, if_pos hp], exec_inquiry_of_sel hs hk,
      State.setDrive_setDrive, State.cfg_setDrive]
    rfl
  · rw [hrun, decodePacket_other c (by simpa [Instr.wellFormed, and_assoc] using ⟨h12, h28, hA8⟩) rfl,
      exec_pktAbortOther_of_sel hs hk, State.setDrive_setDrive, State.cfg_setDrive]
    rfl
  · have hcount : sectorsOf (if p[0] = 0x28 then packetLen10 p else packetLen12 p) = count := by
      rw [sectorsOf_eq, apply_ite BitVec.toNat, toNat_packetLen10, toNat_packetLen12]
    have hpos : 0 < count := hcount ▸ (sectorsOf_bounds _).1
    have hoff : (packetLba p).toNat * 2048 = off := by rw [toNat_packetLba]
    rw [hrun, exec_decodePacket_read hp, hcount, ← hoff]
    refine ⟨fun hm => ?_, fun m hm => ⟨fun hans => ?_, fun hans hend => ?_, fun hans hend => ?_⟩⟩
    · rw [cdRead_of_no_image hs hk hm, State.setDrive_setDrive, State.cfg_setDrive]
      rfl
    · rw [cdRead_of_ioFault hs hk hm ((State.nextAnswer_setDrive ..).trans hans), State.afterDraw_setDrive,
        State.setDrive_setDrive, State.cfg_setDrive]
      rfl
    · rw [cdRead_of_past_end hs hk hm ((State.nextAnswer_setDrive ..).trans hans) hpos hend, State.afterDraw_setDrive,
        State.setDrive_setDrive, State.cfg_setDrive]
      rfl
    · refine ⟨words (m.readBytes ((packetLba p).toNat * 2048) (count * 2048)), ?_, ?_, fun j hj => ?_⟩
      · rw [cdRead_of_within hs hk hm ((State.nextAnswer_setDrive ..).trans hans) hend, State.afterDraw_setDrive,
          State.setDrive_setDrive, Drive.succeedWith_eq]
      · rw [length_words, Memory.length_readBytes]
        omega
      · exact getElem?_words_readBytes m _ (by omega)

end Sys2Proof.Machine
end

section
/-! The data port (40_controller_ports.md R103 to R105, R138; 41_buffer_protocol.md R140 to R146): what one access does,
and what reading a staged buffer to its end does. -/

namespace Sys2Proof.Machine

/-! ### One access of an admitted size -/

section Admitted

variable {s : State} {c : Chan} {n : Nat} (hn : admittedSize n = true)
include hn

/-- With no drive a data read replies 0 (40_controller_ports.md R103). -/
theorem exec_dataRd_of_none (hs : s.sel c = none) : exec (.dataRd c n) s = .next (s.reply 0) := by
  simp only [exec, execDataRd, whenAdmitted_next hn, hs]

/-- With no drive a data write is dropped (40_controller_ports.md R103). -/
theorem exec_dataWr_of_none (hs : s.sel c = none) (v : Dword) : exec (.dataWr c n v) s = .next s := by
  simp only [exec, execDataWr, whenAdmitted_next hn, hs]

variable {sl : Slot} {d : Drive} (hs : s.sel c = some (sl, d))
include hs

/-- A data read of the selected drive (40_controller_ports.md R104, R138). -/
theorem exec_dataRd_of_sel :
    exec (.dataRd c n) s =
      .next (((s.setDrive c sl (d.bufRead s.cfg.earlyFinish).2).emit (.account d.kind c 0 .read)).reply
        ((d.bufRead s.cfg.earlyFinish).1.setWidth 32)) := by
  simp only [exec, execDataRd, whenAdmitted_next hn, hs, State.setDrive_emit]

/-- A data write of the selected drive (40_controller_ports.md R105, R138). -/
theorem exec_dataWr_of_sel (v : Dword) :
    exec (.dataWr c n v) s =
      .next ((s.setDrive c sl (d.bufWrite (valueWord v))).emit (.account d.kind c 0 .write)) := by
  simp only [exec, execDataWr, whenAdmitted_next hn, hs, State.setDrive_emit]

end Admitted

/-! ### The early-finish predicate in its two readings (41_buffer_protocol.md R141) -/

theorem earlyFinishFires_atThreshold (k : Nat) (y : BitVec 16) :
    earlyFinishFires .atThreshold k y = decide (2 * k = y.toNat) :=
  beq_eq_decide ..

theorem earlyFinishFires_fromThreshold (k : Nat) (y : BitVec 16) :
    earlyFinishFires .fromThreshold k y = decide (y.toNat ≠ 0 ∧ y.toNat ≤ 2 * k) := by
  rw [Bool.eq_iff_iff, decide_eq_true_iff, earlyFinishFires, Bool.and_eq_true, bne_iff_ne, decide_eq_true_iff, Ne,
    ← BitVec.toNat_inj]
  rfl

/-! ### What the data port answers -/

/-- Settles O31: the drive after a data read with a word left, the early-finish predicate read by its two readings. -/
theorem dataReadMovesOneWord : Obligations.DataReadMovesOneWord := by
  intro s c n sl d hn hs hlt k y early left
  have hy : d.cyl.toNat = y := toNat_joinBytes d.cylLow d.cylHigh
  have hearly : earlyFinishFires s.cfg.earlyFinish k d.cyl = early := by
    cases he : s.cfg.earlyFinish with
    | atThreshold => simp only [early, he, earlyFinishFires_atThreshold, hy]
    | fromThreshold => simp only [early, he, earlyFinishFires_fromThreshold, hy]
  rw [exec_dataRd_of_sel hn hs, Drive.bufRead_of_lt _ hlt, hearly]
  simp only [State.reply, State.emit, State.reads_setDrive, State.events_setDrive]
  rfl

/-- Settles O32: the drive after a data write with room. -/
theorem dataWriteMovesOneWord : Obligations.DataWriteMovesOneWord := by
  intro s c n v sl d hn hs hlt
  rw [exec_dataWr_of_sel hn hs, Drive.bufWrite_of_lt _ hlt, State.emit, State.events_setDrive]
  rfl

/-- Settles O33: with no word and no room the drive stored is the drive that was there. -/
theorem dataPortWithoutWordOrRoom : Obligations.DataPortWithoutWordOrRoom := by
  intro s c n v hn
  refine ⟨fun sl d hs hle => ?_, fun hs => ⟨exec_dataRd_of_none hn hs, exec_dataWr_of_none hn hs v⟩⟩
  have hself : s.setDrive c sl d = s := State.setDrive_self (State.driveAt_of_sel hs)
  constructor
  · rw [exec_dataRd_of_sel hn hs, Drive.bufRead_of_le _ hle, hself]
    rfl
  · rw [exec_dataWr_of_sel hn hs, Drive.bufWrite_of_le _ hle, hself]
    rfl

/-! ### Reading a buffer to its end -/

/-- One read more after `m` reads is a data read of the state they lead to. -/
theorem drain_succ {c : Chan} {n m : Nat} {s t : State} (h : drain c n m s = .next t) :
    drain c n (m + 1) s = exec (.dataRd c n) t := by
  induction m generalizing s with
  | zero =>
    rw [next_inj h, drain]
    cases exec (.dataRd c n) t <;> rfl
  | succ m ih =>
    rw [drain] at h ⊢
    cases hx : exec (.dataRd c n) s with
    | next u => rw [hx] at h; exact ih h
    | fault f => rw [hx] at h; cases h
    | refused r => rw [hx] at h; cases h

/-- With cylinder 0 a data read moves the cursor and changes the status only at the end (41_buffer_protocol.md R143). -/
theorem Drive.bufRead_of_cyl_zero {d : Drive} (e : EarlyFinish) (h : d.cur < d.buf.length) (hc : d.cyl = 0) :
    (d.bufRead e).2 =
      { d with cur := d.cur + 1, status := if d.cur + 1 = d.buf.length then statusDrdy else d.status } := by
  rw [Drive.bufRead_of_lt e h, hc, earlyFinishFires_zero]
  simp

/-- The selected drive `d`, with its buffer freshly staged, after `m` data reads that led from `s` to `t`, where it is
`d'`. -/
structure Drained (s : State) (c : Chan) (sl : Slot) (d : Drive) (m : Nat) (t : State) (d' : Drive) : Prop where
  /-- It is still selected. -/
  sel : t.sel c = some (sl, d')
  buf : d'.buf = d.buf
  cur : d'.cur = m
  /-- The words read so far, newest first. -/
  reads : t.reads = ((d.buf.take m).map (BitVec.setWidth 32)).reverse ++ s.reads
  /-- The last read leaves Ready (41_buffer_protocol.md R144, R146). -/
  ready : m = d.buf.length → d'.status = statusDrdy
  /-- With cylinder 0 nothing but the cursor and the last read's status changes (41_buffer_protocol.md R143). -/
  steady : d.cyl = 0 → d' = { d with cur := m, status := if m = d.buf.length then statusDrdy else d.status }

section Drain

variable {s : State} {c : Chan} {sl : Slot} {d : Drive}

/-- Before the first read the drive is as it was staged. -/
theorem drained_zero (hs : s.sel c = some (sl, d)) (hcur : d.cur = 0) (hbuf : d.buf ≠ []) :
    Drained s c sl d 0 s d := by
  have hne : 0 ≠ d.buf.length := (List.length_pos_iff.mpr hbuf).ne
  exact {
    sel := hs
    buf := rfl
    cur := hcur
    reads := rfl
    ready := fun h => absurd h hne
    steady := fun _ => by rw [if_neg hne, ← hcur] }

/-- A data read with a word left is one read more. -/
theorem Drained.succ {n m : Nat} {t : State} {d' : Drive} (h : Drained s c sl d m t d') (hn : admittedSize n = true)
    (hm : m < d.buf.length) : ∃ u d'', exec (.dataRd c n) t = .next u ∧ Drained s c sl d (m + 1) u d'' := by
  obtain ⟨hsel, hbuf, hcur, hreads, -, hsteady⟩ := h
  have hlt : d'.cur < d'.buf.length := by rw [hbuf, hcur]; exact hm
  have hread := Drive.bufRead_of_lt t.cfg.earlyFinish hlt
  refine ⟨_, (d'.bufRead t.cfg.earlyFinish).2, exec_dataRd_of_sel hn hsel, ?_⟩
  constructor
  case sel =>
    rw [State.sel_reply, State.sel_emit]
    exact State.sel_setDrive hsel _
  case buf => rw [hread, hbuf]
  case cur => rw [hread, hcur]
  case reads =>
    have hword : d'.buf.getD d'.cur 0 = d.buf[m] := by rw [hbuf, hcur, List.getD_eq_getElem _ _ hm]
    rw [State.reads_reply, State.reads_emit, State.reads_setDrive, hreads, hread, hword,
      List.take_succ_eq_append_getElem hm, List.map_append, List.reverse_append]
    rfl
  case ready =>
    intro hlast
    rw [hread]
    exact if_pos (.inr (by rw [hcur, hbuf, hlast]))
  case steady =>
    intro hc
    have hd : d' = { d with cur := m } := by rw [hsteady hc, if_neg hm.ne]
    subst hd
    exact Drive.bufRead_of_cyl_zero _ hm hc

/-- Up to its length a freshly staged buffer is read word by word. -/
theorem drain_drained {n m : Nat} (hn : admittedSize n = true) (hs : s.sel c = some (sl, d)) (hcur : d.cur = 0)
    (hbuf : d.buf ≠ []) (hm : m ≤ d.buf.length) : ∃ t d', drain c n m s = .next t ∧ Drained s c sl d m t d' := by
  induction m with
  | zero => exact ⟨s, d, rfl, drained_zero hs hcur hbuf⟩
  | succ m ih =>
    obtain ⟨t, d', hdrain, hd⟩ := ih (by omega)
    rw [drain_succ hdrain]
    exact hd.succ hn hm

end Drain

/-- Settles O34: the state after `m` reads, at the length of the buffer and before it. -/
theorem drainReturnsTheBuffer : Obligations.DrainReturnsTheBuffer := by
  intro s c n sl d hn hs hcur hbuf
  have hdrain := fun m => drain_drained (m := m) hn hs hcur hbuf
  obtain ⟨t, d', ht, hd⟩ := hdrain d.buf.length le_rfl
  refine ⟨⟨t, d', ht, ?_, State.driveAt_of_sel hd.sel, hd.buf, hd.cur, hd.ready rfl⟩, fun hlow hhigh => ?_⟩
  · rw [hd.reads, List.take_length]
  · have hcyl : d.cyl = 0 := by rw [Drive.cyl, hlow, hhigh]; rfl
    refine ⟨fun k hk => ?_, t, ht, ?_⟩
    · obtain ⟨u, e, hu, he⟩ := hdrain k hk.le
      refine ⟨u, hu, ?_⟩
      rw [State.driveAt_of_sel he.sel, he.steady hcyl, if_neg hk.ne]
    · rw [State.driveAt_of_sel hd.sel, hd.steady hcyl, if_pos rfl]
      rfl

end Sys2Proof.Machine
end

section
/-! The hard-disk commands and the default rows as instructions of their own (42_hard_disk.md R162 to R171), each from
the lemma of its case on the selected drive. -/

namespace Sys2Proof.Machine

/-- The next answer is the first the environment has fixed (20_memory.md R56; log 11). -/
theorem State.nextAnswer_of_cons {s : State} {a : StoreAnswer} {rest : List StoreAnswer} (h : s.answers = a :: rest) :
    s.nextAnswer = a := by
  rw [State.nextAnswer, h, List.headD_cons]

/-! ### Sectors read and written -/

/-- Settles O41: the sector read at the drive's offset, word by word. -/
theorem readSectorsStagesTheSector : Obligations.ReadSectorsStagesTheSector := by
  intro s c sl d m hs hk hm hlen off hlt hans
  have hoff : d.hdOffset = off := Drive.hdOffset_eq d
  rw [← hoff] at hlt ⊢
  refine ⟨words (m.readBytes d.hdOffset 512), ?_, ?_, fun i hi => ?_⟩
  · rw [← Drive.succeedWith_eq]
    exact execReadSectors_of_ok hs hk hm hlt hlen hans
  · simp [length_words]
  · exact getElem?_words_readBytes m _ (by omega)

/-- Settles O42: the store with the buffer's bytes written at the drive's offset, byte by byte. -/
theorem writeSectorsStoresTheBuffer : Obligations.WriteSectorsStoresTheBuffer := by
  intro s c sl d m hs hk hm hwf hlen hbuf hlt hans
  have hfit : d.hdOffset + 2 * d.buf.length ≤ m.len := hbuf ▸ Drive.hdOffset_add_le hlen hlt
  refine ⟨m.writeBytes d.hdOffset (bytesOf d.buf), execWriteSectors_of_ok hs hk hm hlt hlen hans hbuf,
    Memory.len_writeBytes .., fun a ha => ?_, fun i hi => ?_⟩
  · exact Memory.byteAt_writeBytes_bytesOf_outside hwf hfit (by omega)
  · exact Memory.byteAt_writeBytes_bytesOf hwf hfit (by omega)

/-- Words written to a store and read back are the words (42_hard_disk.md R171). -/
theorem words_readBytes_writeBytes_bytesOf {m : Memory} (h : m.wf = true) {off n : Nat} {ws : List Word}
    (hn : (bytesOf ws).length = n) (hb : off + n ≤ m.len) :
    words ((m.writeBytes off (bytesOf ws)).readBytes off n) = ws := by
  subst hn
  rw [Memory.readBytes_writeBytes h off _ hb, words_bytesOf]

/-- A hard disk after WRITE_SECTORS of its buffer to its store (42_hard_disk.md R163). -/
def Drive.written (d : Drive) (m : Memory) : Drive :=
  { d.writeDone with media := .attached (m.writeBytes d.hdOffset (bytesOf d.buf)) }

/-- READ_SECTORS on a hard disk that has just written its buffer stages that buffer (42_hard_disk.md R171). -/
theorem execReadSectors_of_written {s : State} {c : Chan} {sl : Slot} {d : Drive} {m : Memory}
    (hs : s.sel c = some (sl, d.written m)) (hk : d.kind = .hd) (hwf : m.wf = true) (hlen : m.len % 512 = 0)
    (hlt : d.hdOffset < m.len) (hbuf : d.buf.length = 256) (hans : s.nextAnswer = .ok) :
    execReadSectors c s = .next (s.afterDraw.setDrive c sl ((d.written m).succeedWith d.buf)) := by
  have hlen' : (m.writeBytes d.hdOffset (bytesOf d.buf)).len = m.len := Memory.len_writeBytes ..
  have hoff : (d.written m).hdOffset = d.hdOffset := rfl
  have hback : words ((m.writeBytes d.hdOffset (bytesOf d.buf)).readBytes d.hdOffset 512) = d.buf :=
    words_readBytes_writeBytes_bytesOf hwf (by rw [length_bytesOf, hbuf]) (Drive.hdOffset_add_le hlen hlt)
  rw [execReadSectors_of_ok hs hk rfl (hlt.trans_eq hlen'.symm) (hlen' ▸ hlen) hans, hoff, hback]

/-- Settles O50: the write leaves the written drive selected, and the read finds what the write stored. -/
theorem hdWriteReadRoundTrip : Obligations.HdWriteReadRoundTrip := by
  intro s c sl d m rest hs hk hm hwf hlen hlt hbuf hans
  have hwrite : exec (.writeSectors c) s = .next (s.afterDraw.setDrive c sl (d.written m)) :=
    execWriteSectors_of_ok hs hk hm hlt hlen (State.nextAnswer_of_cons hans) hbuf
  have hsel : (s.afterDraw.setDrive c sl (d.written m)).sel c = some (sl, d.written m) :=
    State.sel_setDrive ((State.sel_afterDraw ..).trans hs) _
  have hanswer : (s.afterDraw.setDrive c sl (d.written m)).nextAnswer = .ok :=
    (State.nextAnswer_setDrive ..).trans (State.nextAnswer_of_cons (congrArg List.tail hans))
  exact ⟨_, _, _, hwrite, execReadSectors_of_written hsel hk hwf hlen hlt hbuf hanswer,
    State.driveAt_setDrive_same .., rfl, rfl, rfl, rfl⟩

/-! ### Errors, identify blocks and default rows -/

/-- Settles O43: the store, then the range, then the buffer. -/
theorem hdCommandErrorsInOrder : Obligations.HdCommandErrorsInOrder := by
  intro s c sl d hs hk failed off
  have hoff : d.hdOffset = off := Drive.hdOffset_eq d
  rw [← hoff]
  refine ⟨fun hm => ⟨?_, ?_⟩, fun m hm hle => ⟨?_, ?_⟩, fun m hm hlt hbuf => ?_⟩
  · exact execReadSectors_of_no_store hs hk hm
  · exact execWriteSectors_of_no_store hs hk hm
  · exact execReadSectors_of_le hs hk hm hle
  · exact execWriteSectors_of_le hs hk hm hle
  · exact execWriteSectors_of_length_ne hs hk hm hlt hbuf

/-- Settles O45: each backend's block is staged as the list of its 256 words. -/
theorem identifyStagesTheIdentifyBlock : Obligations.IdentifyStagesTheIdentifyBlock := by
  intro s c sl d hs staged
  refine ⟨fun hk => ⟨_, exec_identifyDevice_of_sel hs hk, Vector.length_toList, fun i => ?_⟩,
    fun hk => ⟨_, exec_identifyPacketDevice_of_sel hs hk, Vector.length_toList, fun i => ?_⟩⟩ <;>
  simp

/-- Settles O47: each default row is the error entry with Aborted. -/
theorem unimplementedEncodingsAbort : Obligations.UnimplementedEncodingsAbort :=
  fun _ _ _ _ op hs => ⟨fun hk => exec_hdAbortOther_of_sel hs hk op,
    fun hk => ⟨exec_atapiAbortOther_of_sel hs hk op, exec_pktAbortOther_of_sel hs hk op⟩⟩

end Sys2Proof.Machine
end

section
/-! The packet and the packet commands as instructions of their own (43_atapi.md R193 to R202): which bytes PACKET takes,
and the outcomes of INQUIRY and of the two READs, each from the lemma of its case on the selected optical drive. -/

namespace Sys2Proof.Machine

/-! ### The packet taken from the buffer -/

/-- Byte `i` of the packet taken: low byte of a word first, 0x00 past the end of the buffer (43_atapi.md R193, D22). -/
theorem getElem_packetOfBuffer (buf : List Word) (i : Fin 12) :
    (packetOfBuffer buf)[i] = (buf.getD (i.val / 2) 0).extractLsb' (8 * (i.val % 2)) 8 := by
  have hbyte : (packetOfBuffer buf)[i] = bufferByte (bytesOf buf) i := by
    fin_cases i <;> rfl
  rw [hbyte, bufferByte, getD_bytesOf]

/-- Settles O7: a packet with these 12 bytes is the one that PACKET takes. -/
theorem packetRunsTheDecodedPacket : Obligations.PacketRunsTheDecodedPacket := by
  intro s c sl d p hs hk hp
  have hpacket : p = packetOfBuffer d.buf :=
    Vector.ext fun i hi => (hp ⟨i, hi⟩).trans (getElem_packetOfBuffer d.buf ⟨i, hi⟩).symm
  rw [hpacket]
  exact exec_packet_of_sel hs hk

/-! ### INQUIRY and the packets that abort -/

/-- Settles O46: the 36 bytes of the response, packed. -/
theorem inquiryStagesTheResponse : Obligations.InquiryStagesTheResponse := by
  intro s c sl d hs hk
  have hlen : s.cfg.inquiryData.toList.length = 36 := Vector.length_toList
  refine ⟨words s.cfg.inquiryData.toList, exec_inquiry_of_sel hs hk, ?_, fun i hi => ?_⟩
  · rw [length_words, hlen]
  · exact getElem?_words _ i (by omega)

/-- Settles O48: the packet is decoded by its first byte and runs on the drive that holds it in its packet area. -/
theorem packetCompletes : Obligations.PacketCompletes := by
  intro s c sl d hs hk p
  have hs' : (s.setDrive c sl { d with packet := p }).sel c = some (sl, { d with packet := p }) :=
    State.sel_setDrive hs _
  refine ⟨getElem_packetOfBuffer d.buf 0, fun h12 => ?_, fun h12 h28 hA8 => ?_⟩
  · have hdec : decodePacket c p = .inquiry c := by rw [decodePacket, if_pos h12]
    rw [exec_packet_of_sel hs hk, hdec, exec_inquiry_of_sel hs' hk, State.setDrive_setDrive, State.cfg_setDrive,
      Drive.succeedWith_eq]
  · have hdec : decodePacket c p = .pktAbortOther c p[0] := by
      rw [decodePacket, if_neg h12, if_neg h28, if_neg hA8]
    rw [exec_packet_of_sel hs hk, hdec, exec_pktAbortOther_of_sel hs' hk, State.setDrive_setDrive, State.cfg_setDrive]
    rfl

/-! ### READ(10) and READ(12) -/

/-- A stall of the stream stalls the guest and does nothing else to a packet READ's state (60_exceptions.md R270). -/
theorem cdRead_of_stall {s : State} {c : Chan} {sl : Slot} {d : Drive} {m : Memory} (hs : s.sel c = some (sl, d))
    (hk : d.kind = .atapi) (hm : d.media = .attached m) (hans : s.nextAnswer = .stall) (lba n : Nat) :
    cdRead c lba n s = .next s.afterDraw.stall := by
  simp only [cdRead_of_attached hs hk hm, cdReadAccess, hans]

/-- Settles O49: both READs are one `cdRead`, decided by the media, the stream's answer and the end of the image. -/
theorem atapiReadOutcomes : Obligations.AtapiReadOutcomes := by
  intro s c sl d lba len i hi hs hk n off failed
  have hrun : exec i s = cdRead c lba.toNat n s := by
    rcases hi with rfl | rfl <;> rfl
  have hn : 0 < n := (sectorsOf_bounds len).1
  rw [hrun]
  refine ⟨fun hm => ?_, fun m hm => ⟨fun hans => ?_, fun hans => ?_, fun hans hend => ?_, fun hans hend => ?_⟩⟩
  · exact cdRead_of_no_image hs hk hm ..
  · exact cdRead_of_ioFault hs hk hm hans ..
  · exact cdRead_of_stall hs hk hm hans ..
  · exact cdRead_of_past_end hs hk hm hans hn hend
  · refine ⟨words (m.readBytes off (n * 2048)), cdRead_of_within hs hk hm hans hend, ?_, fun j hj => ?_⟩
    · rw [length_words, Memory.length_readBytes]
      omega
    · exact getElem?_words_readBytes m off (by omega)

end Sys2Proof.Machine
end

section
/-! The host operations and load completions case by case (44_host_operations.md R231 to R240): which step an input at
the head of the list makes, and what the drives and the pending loads are after a detach, a load start or a load's end. -/

namespace Sys2Proof.Machine

/-! ### The step of a host or loader input -/

/-- A host or loader input at the head of the inputs is the one a step performs, whether or not the guest is stalled
(20_memory.md R61, 60_exceptions.md R270). -/
theorem step_host {inp : Input} (s : State) (h : ∀ a, inp ≠ .guest a) :
    step { s with inputs := inp :: s.inputs } = perform exec inp s := by
  simp only [step, nextInput_host s.guestStalled s.inputs h]

theorem step_attach (s : State) (c : Chan) (k : Kind) (img : Option Image) :
    step { s with inputs := .attach c k img :: s.inputs } = hostAttach c k img s :=
  step_host s nofun

theorem step_detachAll (s : State) (c : Chan) (k : Kind) :
    step { s with inputs := .detachAll c k :: s.inputs } = hostDetachAll c k s :=
  step_host s nofun

theorem step_loadImage (s : State) (c : Chan) (sl : Slot) (src : Nat) :
    step { s with inputs := .loadImage c sl src :: s.inputs } = hostLoadImage c sl src s :=
  step_host s nofun

theorem step_loadDone (s : State) (loader : Nat) (ans : LoadAnswer) :
    step { s with inputs := .loadDone loader ans :: s.inputs } = loadDone loader ans s :=
  step_host s nofun

/-! ### Attach -/

/-- Which stores may be attached (44_host_operations.md R242, D19). -/
theorem admittedImage_iff {k : Kind} {img : Image} : admittedImage k img = true ↔ (k = .hd → img.len % 512 = 0) := by
  cases k <;> simp [admittedImage, hdSector]

theorem Channel.freeSlot_of_master {ch : Channel} (h : ch.master = none) : ch.freeSlot = some .master := by
  simp [Channel.freeSlot, h]

theorem Channel.freeSlot_of_slave {ch : Channel} {d : Drive} (hm : ch.master = some d) (hs : ch.slave = none) :
    ch.freeSlot = some .slave := by
  simp [Channel.freeSlot, hm, hs]

theorem Channel.freeSlot_of_full {ch : Channel} {d d' : Drive} (hm : ch.master = some d) (hs : ch.slave = some d') :
    ch.freeSlot = none := by
  simp [Channel.freeSlot, hm, hs]

/-- A channel with an empty slot has a lowest one. -/
theorem Channel.exists_freeSlot {ch : Channel} (h : ch.master = none ∨ ch.slave = none) : ∃ sl, ch.freeSlot = some sl := by
  cases hm : ch.master with
  | none => exact ⟨.master, Channel.freeSlot_of_master hm⟩
  | some d => exact ⟨.slave, Channel.freeSlot_of_slave hm (h.resolve_left (by simp [hm]))⟩

theorem hostAttach_of_full {c : Chan} {s : State} (hf : (s.chan c).freeSlot = none) (k : Kind) (img : Option Image) :
    hostAttach c k img s = .next (s.emit (.attachChannelFull c)) := by
  simp only [hostAttach, hf]

theorem hostAttach_of_admitted {c : Chan} {k : Kind} {img : Option Image} {s : State} {sl : Slot}
    (hf : (s.chan c).freeSlot = some sl) (ha : ∀ x, img = some x → admittedImage k x = true) :
    hostAttach c k img s = .next (s.setDrive c sl (attachedDrive s.cfg k img)) := by
  have hall : img.all (admittedImage k) = true := by
    cases img with
    | none => rfl
    | some x => exact ha x rfl
  simp only [hostAttach, hf, hall, if_true]

theorem hostAttach_of_not_admitted {c : Chan} {k : Kind} {img : Image} {s : State} {sl : Slot}
    (hf : (s.chan c).freeSlot = some sl) (ha : ¬ admittedImage k img = true) :
    hostAttach c k (some img) s = .fault .hdStoreLength := by
  simp only [hostAttach, hf, Option.all_some, if_neg ha]

/-- The medium of a drive just attached is the handle given, or none: never Loading (44_host_operations.md R231). -/
theorem media_attachedDrive (cfg : Config) (k : Kind) (img : Option Image) :
    (attachedDrive cfg k img).media = initialMedia img := by
  cases k <;> rfl

theorem initialMedia_ne_loading (img : Option Image) : initialMedia img ≠ .loading := by
  cases img <;> exact nofun

/-! ### Detach -/

/-- Whether a slot holds a drive of a kind. -/
def State.holds (s : State) (k : Kind) (c : Chan) (sl : Slot) : Bool := (s.driveAt c sl).any fun d => d.kind == k

theorem State.holds_congr {s t : State} {c : Chan} {sl : Slot} (h : t.driveAt c sl = s.driveAt c sl) (k : Kind) :
    t.holds k c sl = s.holds k c sl := by
  rw [State.holds, State.holds, h]

/-- One slot of a detach, that holds no drive of the kind. -/
theorem detachSlot_of_not_holds {s : State} {c : Chan} {k : Kind} {sl : Slot} (h : s.holds k c sl = false) :
    detachSlot c k sl s = s := by
  cases hd : s.driveAt c sl with
  | none => simp only [detachSlot, hd]
  | some d =>
    have hk : ¬ d.kind = k := by simpa [State.holds, hd] using h
    simp only [detachSlot, hd, if_neg hk]

/-- One slot of a detach, that holds a drive of the kind (44_host_operations.md R233, R239). -/
theorem detachSlot_of_holds {s : State} {c : Chan} {k : Kind} {sl : Slot} (h : s.holds k c sl = true) :
    ∃ m, detachSlot c k sl s =
      { (s.release m).setSlot c sl none with loads := s.loads.filter fun l => !(l.chan == c && l.slot == sl) } := by
  obtain ⟨d, hd, hk⟩ := (Option.any_eq_true _ _).1 h
  exact ⟨d.media, by simp only [detachSlot, hd, if_pos (beq_iff_eq.1 hk)]⟩

/-- Other pending loads leave the drives as they are. -/
theorem State.driveAt_withLoads (s : State) (ls : List Load) (c : Chan) (sl : Slot) :
    ({ s with loads := ls } : State).driveAt c sl = s.driveAt c sl := by
  cases c <;> rfl

theorem driveAt_detachSlot (s : State) (c c' : Chan) (k : Kind) (sl sl' : Slot) :
    (detachSlot c k sl s).driveAt c' sl' =
      if c' = c ∧ sl' = sl ∧ s.holds k c' sl' = true then none else s.driveAt c' sl' := by
  cases hh : s.holds k c sl with
  | false =>
    rw [detachSlot_of_not_holds hh, if_neg]
    rintro ⟨rfl, rfl, ht⟩
    exact Bool.false_ne_true (hh.symm.trans ht)
  | true =>
    obtain ⟨m, hm⟩ := detachSlot_of_holds hh
    rw [hm, State.driveAt_withLoads, State.driveAt_setSlot, State.driveAt_release]
    refine if_congr ⟨?_, fun h => ⟨h.1, h.2.1⟩⟩ rfl rfl
    rintro ⟨rfl, rfl⟩
    exact ⟨rfl, rfl, hh⟩

/-- A load on a slot has that slot's drive for its target. -/
theorem Load.targets_and_holds (l : Load) (s : State) (k : Kind) (c : Chan) (sl : Slot) :
    (l.chan == c && l.slot == sl && s.holds k l.chan l.slot) = (l.chan == c && l.slot == sl && s.holds k c sl) := by
  cases hl : l.chan == c && l.slot == sl with
  | false => rfl
  | true =>
    obtain ⟨hc, hs⟩ : l.chan = c ∧ l.slot = sl := by simpa using hl
    rw [hc, hs]

theorem loads_detachSlot (s : State) (c : Chan) (k : Kind) (sl : Slot) :
    (detachSlot c k sl s).loads =
      s.loads.filter fun l => !(l.chan == c && l.slot == sl && s.holds k l.chan l.slot) := by
  simp only [Load.targets_and_holds]
  cases hh : s.holds k c sl with
  | false => simp only [detachSlot_of_not_holds hh, Bool.and_false, Bool.not_false, List.filter_true]
  | true =>
    obtain ⟨m, hm⟩ := detachSlot_of_holds hh
    simp only [hm, Bool.and_true]

/-- A detach makes no new loader agent and logs nothing (44_host_operations.md R233). -/
theorem frame_detachSlot (s : State) (c : Chan) (k : Kind) (sl : Slot) :
    (detachSlot c k sl s).nextLoader = s.nextLoader ∧ (detachSlot c k sl s).events = s.events := by
  cases hh : s.holds k c sl with
  | false => simp [detachSlot_of_not_holds hh]
  | true =>
    obtain ⟨m, hm⟩ := detachSlot_of_holds hh
    simp [hm]

/-- The state that a detach of both slots leaves (44_host_operations.md R233). -/
def State.detachAll (s : State) (c : Chan) (k : Kind) : State := detachSlot c k .slave (detachSlot c k .master s)

/-- Whether a detach of a channel's drives of a kind empties a slot (44_host_operations.md R233). -/
def State.detaches (s : State) (c : Chan) (k : Kind) (c' : Chan) (sl : Slot) : Bool := c' == c && s.holds k c' sl

theorem hostDetachAll_eq (c : Chan) (k : Kind) (s : State) : hostDetachAll c k s = .next (s.detachAll c k) := rfl

/-- Emptying the master slot leaves the slave slot as it was. -/
theorem holds_detachSlot_master_slave (s : State) (c c' : Chan) (k : Kind) :
    (detachSlot c k .master s).holds k c' .slave = s.holds k c' .slave :=
  State.holds_congr (by simp [driveAt_detachSlot]) k

theorem State.driveAt_detachAll (s : State) (c c' : Chan) (k : Kind) (sl : Slot) :
    (s.detachAll c k).driveAt c' sl = if s.detaches c k c' sl = true then none else s.driveAt c' sl := by
  rw [State.detachAll, driveAt_detachSlot, driveAt_detachSlot]
  cases sl with
  | master => simp [State.detaches]
  | slave => simp [State.detaches, holds_detachSlot_master_slave]

theorem State.loads_detachAll (s : State) (c : Chan) (k : Kind) :
    (s.detachAll c k).loads = s.loads.filter fun l => !s.detaches c k l.chan l.slot := by
  rw [State.detachAll, loads_detachSlot, loads_detachSlot, List.filter_filter]
  refine List.filter_congr fun l _ => ?_
  cases hsl : l.slot with
  | master => simp [State.detaches]
  | slave => simp [State.detaches, holds_detachSlot_master_slave]

theorem State.frame_detachAll (s : State) (c : Chan) (k : Kind) :
    (s.detachAll c k).nextLoader = s.nextLoader ∧ (s.detachAll c k).events = s.events := by
  obtain ⟨hnext, hevents⟩ := frame_detachSlot s c k .master
  obtain ⟨hnext', hevents'⟩ := frame_detachSlot (detachSlot c k .master s) c k .slave
  exact ⟨hnext'.trans hnext, hevents'.trans hevents⟩

theorem guestStatic_detachAll (s : State) (c : Chan) (k : Kind) : GuestStatic s (s.detachAll c k) :=
  (guestStatic_detachSlot c k .master s).trans (guestStatic_detachSlot c k .slave _)

/-! ### Channel reset -/

theorem State.resetChannel_of_empty {s : State} {c : Chan} (hm : (s.chan c).master = none)
    (hs : (s.chan c).slave = none) : s.resetChannel c = s.emit (.resetNoDrive c) := by
  simp [State.resetChannel, hm, hs]

theorem State.resetChannel_of_present {s : State} {c : Chan} (h : (s.chan c).master ≠ none ∨ (s.chan c).slave ≠ none) :
    s.resetChannel c = s.setChan c ((s.chan c).mapDrives Drive.backendReset) := by
  have hne : ¬ ((s.chan c).master.isNone && (s.chan c).slave.isNone) = true := by
    simpa [imp_iff_not_or] using h
  rw [State.resetChannel, if_neg hne]

/-! ### Load start -/

/-- The state after the start of a load on drive `d` (44_host_operations.md R235). -/
def State.startLoad (s : State) (c : Chan) (sl : Slot) (d : Drive) (src : Nat) : State :=
  { (s.release d.media).setDrive c sl { d with media := .loading } with
    loads := s.loads ++ [⟨s.nextLoader, c, sl, src⟩]
    nextLoader := s.nextLoader + 1 }

theorem hostLoadImage_of_none {c : Chan} {sl : Slot} {s : State} (h : s.driveAt c sl = none) (src : Nat) :
    hostLoadImage c sl src s = .next (s.emit (.loadNoDrive c sl)) := by
  simp only [hostLoadImage, h]

theorem hostLoadImage_of_some {c : Chan} {sl : Slot} {d : Drive} {s : State} (h : s.driveAt c sl = some d) (src : Nat) :
    hostLoadImage c sl src s = .next (s.startLoad c sl d src) := by
  simp only [hostLoadImage, h, State.startLoad]

section StartLoad

variable (s : State) (c : Chan) (sl : Slot) (d : Drive) (src : Nat)

@[simp] theorem State.loads_startLoad : (s.startLoad c sl d src).loads = s.loads ++ [⟨s.nextLoader, c, sl, src⟩] := rfl

@[simp] theorem State.nextLoader_startLoad : (s.startLoad c sl d src).nextLoader = s.nextLoader + 1 := rfl

@[simp] theorem State.events_startLoad : (s.startLoad c sl d src).events = s.events := by simp [State.startLoad]

@[simp] theorem State.released_startLoad : (s.startLoad c sl d src).released = (s.release d.media).released := by
  simp [State.startLoad]

theorem State.driveAt_startLoad (c' : Chan) (sl' : Slot) :
    (s.startLoad c sl d src).driveAt c' sl' =
      if c' = c ∧ sl' = sl then some { d with media := .loading } else s.driveAt c' sl' := by
  have h : (s.startLoad c sl d src).driveAt c' sl' =
      ((s.release d.media).setDrive c sl { d with media := .loading }).driveAt c' sl' := by
    cases c' <;> rfl
  rw [h, State.driveAt_setDrive, State.driveAt_release]

end StartLoad

/-! ### Load completion -/

@[simp] theorem State.driveAt_dropLoader (s : State) (loader : Nat) (c : Chan) (sl : Slot) :
    (s.dropLoader loader).driveAt c sl = s.driveAt c sl := by
  cases c <;> rfl

@[simp] theorem State.loads_dropLoader (s : State) (loader : Nat) :
    (s.dropLoader loader).loads = s.loads.filter fun x => x.loader != loader := rfl

@[simp] theorem State.nextLoader_dropLoader (s : State) (loader : Nat) :
    (s.dropLoader loader).nextLoader = s.nextLoader := rfl

@[simp] theorem State.events_dropLoader (s : State) (loader : Nat) : (s.dropLoader loader).events = s.events := rfl

@[simp] theorem State.cfg_dropLoader (s : State) (loader : Nat) : (s.dropLoader loader).cfg = s.cfg := rfl

/-- The state after the end of load `l`, whose target drive `d` is left as `d'` (44_host_operations.md R236 to R239). -/
def State.endLoad (s : State) (l : Load) (d d' : Drive) : State :=
  ((s.dropLoader l.loader).release d.media).setDrive l.chan l.slot d'

theorem State.driveAt_endLoad (s : State) (l : Load) (d d' : Drive) (c : Chan) (sl : Slot) :
    (s.endLoad l d d').driveAt c sl = if c = l.chan ∧ sl = l.slot then some d' else s.driveAt c sl := by
  simp [State.endLoad, State.driveAt_setDrive]

@[simp] theorem State.loads_endLoad (s : State) (l : Load) (d d' : Drive) :
    (s.endLoad l d d').loads = s.loads.filter fun x => x.loader != l.loader := by
  simp [State.endLoad]

@[simp] theorem State.nextLoader_endLoad (s : State) (l : Load) (d d' : Drive) :
    (s.endLoad l d d').nextLoader = s.nextLoader := by
  simp [State.endLoad]

@[simp] theorem State.events_endLoad (s : State) (l : Load) (d d' : Drive) : (s.endLoad l d d').events = s.events := by
  simp [State.endLoad]

/-- A completion whose load is not pending (log 21). -/
theorem loadDone_of_not_pending {s : State} {loader : Nat} (h : ∀ x ∈ s.loads, x.loader ≠ loader) (ans : LoadAnswer) :
    loadDone loader ans s = .next s := by
  have hnone : s.loads.find? (fun x => x.loader == loader) = none := by simpa [List.find?_eq_none] using h
  simp only [loadDone, hnone]

section Pending

variable {s : State} {l : Load} {d : Drive} (hl : s.loads.find? (fun x => x.loader == l.loader) = some l)
  (hd : s.driveAt l.chan l.slot = some d)
include hl hd

/-- An answered load ends on its target drive (44_host_operations.md R236, R237). -/
theorem loadDone_ok (img : Image) :
    loadDone l.loader (.ok img) s = loadSucceeds l.chan l.slot d img (s.dropLoader l.loader) := by
  have hd' : (s.dropLoader l.loader).driveAt l.chan l.slot = some d := by rw [State.driveAt_dropLoader, hd]
  rw [State.dropLoader] at hd' ⊢
  simp only [loadDone, hl, hd']

theorem loadDone_failed :
    loadDone l.loader .failed s =
      .next ((s.endLoad l d { d with media := .unattached }).emit (.loadFailed l.chan l.slot)) := by
  have hd' : (s.dropLoader l.loader).driveAt l.chan l.slot = some d := by rw [State.driveAt_dropLoader, hd]
  rw [State.dropLoader] at hd'
  simp only [loadDone, hl, hd', loadFails, State.endLoad, State.dropLoader]

theorem loadDone_ok_hd {img : Image} (hk : d.kind = .hd) (hlen : img.len % 512 = 0) :
    loadDone l.loader (.ok img) s = .next (s.endLoad l d { d with media := .attached (Memory.ofImage img) }) := by
  have hadm : admittedImage d.kind img = true := admittedImage_iff.2 fun _ => hlen
  rw [loadDone_ok hl hd, loadSucceeds, if_pos hadm]
  simp only [hk, State.endLoad]

theorem loadDone_ok_atapi (img : Image) (hk : d.kind = .atapi) :
    loadDone l.loader (.ok img) s =
      .next (s.endLoad l d ({ d with media := .attached (Memory.ofImage img) }.cdLoadStage s.cfg)) := by
  have hadm : admittedImage d.kind img = true := admittedImage_iff.2 fun h => nomatch hk.symm.trans h
  rw [loadDone_ok hl hd, loadSucceeds, if_pos hadm]
  simp only [hk, State.endLoad, State.cfg_dropLoader]

theorem loadDone_ok_of_bad_length {img : Image} (hk : d.kind = .hd) (hlen : img.len % 512 ≠ 0) :
    loadDone l.loader (.ok img) s = .fault .hdStoreLength := by
  have hadm : ¬ admittedImage d.kind img = true := fun h => hlen (admittedImage_iff.1 h hk)
  rw [loadDone_ok hl hd, loadSucceeds, if_neg hadm]

end Pending

end Sys2Proof.Machine
end

section
/-! The load invariant (44_host_operations.md R233, R235, R239; 10_state.md R33): every input keeps the agreement of
pending loads and drives, and so every step does. -/

namespace Sys2Proof.Machine

/-- Loads go and drives change: the invariant stays if every load that stays keeps its target, and every drive that is
Loading already was and loses no load. -/
theorem State.LoadInv.of_filter {s t : State} (h : s.LoadInv) {p : Load → Bool} (hloads : t.loads = s.loads.filter p)
    (hnext : t.nextLoader = s.nextLoader)
    (htarget : ∀ l ∈ s.loads, p l = true → (t.driveAt l.chan l.slot).isSome = true)
    (hloading : ∀ c sl d, t.driveAt c sl = some d → d.media = .loading →
      (∃ d0, s.driveAt c sl = some d0 ∧ d0.media = .loading) ∧ ∀ l ∈ s.loads, l.chan = c → l.slot = sl → p l = true) :
    t.LoadInv where
  target l hl := by
    rw [hloads] at hl
    obtain ⟨hmem, hp⟩ := List.mem_filter.1 hl
    exact htarget l hmem hp
  loading c sl d hd hm := by
    obtain ⟨⟨d0, hd0, hm0⟩, hkeep⟩ := hloading c sl d hd hm
    obtain ⟨l, hl, hc, hsl⟩ := h.loading c sl d0 hd0 hm0
    exact ⟨l, hloads ▸ List.mem_filter.2 ⟨hl, hkeep l hl hc hsl⟩, hc, hsl⟩
  distinct := hloads ▸ h.distinct.sublist (List.filter_sublist.map _)
  fresh l hl := by
    rw [hloads] at hl
    exact hnext ▸ h.fresh l (List.mem_of_mem_filter hl)

/-- With the pending loads as they were, it is enough that no drive goes and none becomes Loading. -/
theorem State.LoadInv.of_drives {s t : State} (h : s.LoadInv) (hloads : t.loads = s.loads)
    (hnext : t.nextLoader = s.nextLoader)
    (hsome : ∀ c sl, (s.driveAt c sl).isSome = true → (t.driveAt c sl).isSome = true)
    (hloading : ∀ c sl d, t.driveAt c sl = some d → d.media = .loading →
      ∃ d0, s.driveAt c sl = some d0 ∧ d0.media = .loading) : t.LoadInv :=
  h.of_filter (p := fun _ => true) (by rw [hloads, List.filter_true]) hnext
    (fun l hl _ => hsome _ _ (h.target l hl)) fun c sl d hd hm => ⟨hloading c sl d hd hm, fun _ _ _ _ => rfl⟩

/-- The invariant speaks only of the drives and the pending loads. -/
theorem State.LoadInv.of_same {s t : State} (h : s.LoadInv) (hd : ∀ c sl, t.driveAt c sl = s.driveAt c sl)
    (hloads : t.loads = s.loads) (hnext : t.nextLoader = s.nextLoader) : t.LoadInv :=
  h.of_drives hloads hnext (fun c sl hs => hd c sl ▸ hs) fun c sl d hs hm => ⟨d, hd c sl ▸ hs, hm⟩

theorem State.LoadInv.withInputs {s : State} (h : s.LoadInv) (ins : List Input) :
    ({ s with inputs := ins } : State).LoadInv :=
  h.of_same (fun c _ => by cases c <;> rfl) rfl rfl

theorem State.LoadInv.emit {s : State} (h : s.LoadInv) (e : Event) : (s.emit e).LoadInv :=
  h.of_same (by simp) rfl rfl

/-- Every change of every drive that keeps its medium keeps the invariant. -/
theorem State.LoadInv.of_mediaKept {s t : State} (h : s.LoadInv) (hm : MediaKept s t) (hloads : t.loads = s.loads)
    (hnext : t.nextLoader = s.nextLoader) : t.LoadInv := by
  refine h.of_drives hloads hnext (fun c sl hs => ?_) fun c sl d hd hl => ?_
  · have hsome : (t.driveAt c sl).isSome = (s.driveAt c sl).isSome := by
      simpa using congrArg Option.isSome (hm c sl)
    rwa [hsome]
  · have hmap := hm c sl
    rw [hd, Option.map_some, hl] at hmap
    exact Option.map_eq_some_iff.1 hmap.symm

/-- A drive put in a slot, not Loading, keeps the invariant, whatever stood there. -/
theorem State.LoadInv.setDrive {s : State} (h : s.LoadInv) (c : Chan) (sl : Slot) {d : Drive}
    (hd : d.media ≠ .loading) : (s.setDrive c sl d).LoadInv := by
  refine h.of_drives (by simp) (by simp) (fun c' sl' hs => ?_) fun c' sl' d' hd' hm => ?_
  · rw [State.driveAt_setDrive]
    split
    · rfl
    · exact hs
  · rw [State.driveAt_setDrive] at hd'
    split at hd'
    · cases hd'
      exact absurd hm hd
    · exact ⟨d', hd', hm⟩

/-- An instruction leaves a drive Loading only if it was: a store is written only where one is attached. -/
theorem DriveStep.loading {cfg : Config} {d d' : Drive} (h : DriveStep cfg d d') (hm : d'.media = .loading) :
    d.media = .loading := by
  cases h with
  | same => exact hm
  | regs a b e f g => exact hm
  | read => rwa [Drive.media_bufRead] at hm
  | write w => rwa [Drive.media_bufWrite] at hm
  | reset => rwa [Drive.media_backendReset] at hm
  | ready => exact hm
  | fail p e he => exact hm
  | staged p ws hw => exact hm
  | written m ha => cases hm
  | packet p => exact hm

/-- Every instruction keeps the invariant: it touches no load, and no drive appears, goes or becomes Loading. -/
theorem exec_loadInv {i : Instr} {s t : State} (h : s.LoadInv) (he : exec i s = .next t) : t.LoadInv := by
  have hst := exec_static he
  refine h.of_drives hst.loads hst.nextLoader (fun c sl hs => ?_) fun c sl d' hd' hm => ?_
  · rcases exec_drives he c sl with ⟨hnone, -⟩ | ⟨d, d', -, ht, -⟩
    · simp [hnone] at hs
    · simp [ht]
  · rcases exec_drives he c sl with ⟨-, hnone⟩ | ⟨d, d'', hd, ht, hstep⟩
    · simp [hnone] at hd'
    · cases ht.symm.trans hd'
      exact ⟨d, hd, hstep.loading hm⟩

theorem hostAttach_loadInv {c : Chan} {k : Kind} {img : Option Image} {s t : State} (h : s.LoadInv)
    (ha : hostAttach c k img s = .next t) : t.LoadInv := by
  rcases hostAttach_eq_next ha with ⟨-, rfl⟩ | ⟨sl, -, -, rfl⟩
  · exact h.emit _
  · exact h.setDrive c sl (media_attachedDrive s.cfg k img ▸ initialMedia_ne_loading img)

/-- A detach drops exactly the loads of the drives it removes (44_host_operations.md R239). -/
theorem State.LoadInv.detachAll {s : State} (h : s.LoadInv) (c : Chan) (k : Kind) : (s.detachAll c k).LoadInv := by
  refine h.of_filter (s.loads_detachAll c k) (s.frame_detachAll c k).1 (fun l hl hp => ?_)
    fun c' sl d hd hm => ?_
  · rw [State.driveAt_detachAll, if_neg (by simpa using hp)]
    exact h.target l hl
  · rw [State.driveAt_detachAll] at hd
    split at hd
    · cases hd
    · rename_i hgone
      refine ⟨⟨d, hd, hm⟩, ?_⟩
      rintro l - rfl rfl
      simpa using hgone

theorem State.LoadInv.resetChannel {s : State} (h : s.LoadInv) (c : Chan) : (s.resetChannel c).LoadInv := by
  obtain ⟨-, hloads, hnext, -⟩ := State.frame_resetChannel s c
  exact h.of_mediaKept (.of_map (State.driveAt_resetChannel s c) Drive.media_backendReset) hloads hnext

/-- A load start adds a load with a new identity, whose target is the drive that becomes Loading
(44_host_operations.md R235). -/
theorem State.LoadInv.startLoad {s : State} (h : s.LoadInv) {c : Chan} {sl : Slot} (d : Drive) (src : Nat) :
    (s.startLoad c sl d src).LoadInv where
  target l hl := by
    rw [State.driveAt_startLoad]
    split
    · rfl
    · rename_i hne
      rcases List.mem_append.1 hl with hl | hl
      · exact h.target l hl
      · cases List.mem_singleton.1 hl
        exact absurd ⟨rfl, rfl⟩ hne
  loading c' sl' d' hd' hm := by
    rw [State.driveAt_startLoad] at hd'
    split at hd'
    · rename_i hc
      exact ⟨_, List.mem_append_right _ (List.mem_singleton_self _), hc.1.symm, hc.2.symm⟩
    · obtain ⟨l, hl, hc⟩ := h.loading c' sl' d' hd' hm
      exact ⟨l, List.mem_append_left _ hl, hc⟩
  distinct := by
    have hnew : s.nextLoader ∉ s.loads.map Load.loader := fun hin => by
      obtain ⟨l, hl, heq⟩ := List.mem_map.1 hin
      exact absurd (h.fresh l hl) (by omega)
    rw [State.loads_startLoad, List.map_append, List.map_singleton, ← List.concat_eq_append]
    exact h.distinct.concat hnew
  fresh l hl := by
    rw [State.nextLoader_startLoad]
    rcases List.mem_append.1 hl with hl | hl
    · exact Nat.lt_succ_of_lt (h.fresh l hl)
    · cases List.mem_singleton.1 hl
      exact Nat.lt_succ_self _

theorem hostLoadImage_loadInv {c : Chan} {sl : Slot} {src : Nat} {s t : State} (h : s.LoadInv)
    (hl : hostLoadImage c sl src s = .next t) : t.LoadInv := by
  rcases hostLoadImage_eq_next hl with ⟨-, rfl⟩ | ⟨d, -, rfl⟩
  · exact h.emit _
  · exact h.startLoad d src

/-- Loads with one identity are one load (44_host_operations.md R239; log 21). -/
theorem State.LoadInv.eq_of_loader {s : State} (h : s.LoadInv) {a b : Load} (ha : a ∈ s.loads) (hb : b ∈ s.loads)
    (hab : a.loader = b.loader) : a = b :=
  List.inj_on_of_nodup_map h.distinct ha hb hab

/-- The end of a load takes away that load alone, and its target is no longer Loading (44_host_operations.md R239):
another Loading drive keeps its load, which has another identity because it has another target. -/
theorem State.LoadInv.endLoad {s : State} (h : s.LoadInv) {l : Load} (hl : l ∈ s.loads) (d : Drive) {d' : Drive}
    (hd' : d'.media ≠ .loading) : (s.endLoad l d d').LoadInv := by
  refine h.of_filter (s.loads_endLoad l d d') (s.nextLoader_endLoad l d d') (fun x hx _ => ?_) fun c sl e he hm => ?_
  · rw [State.driveAt_endLoad]
    split
    · rfl
    · exact h.target x hx
  · rw [State.driveAt_endLoad] at he
    split at he
    · cases he
      exact absurd hm hd'
    · rename_i hne
      refine ⟨⟨e, he, hm⟩, ?_⟩
      rintro x hx rfl rfl
      refine bne_iff_ne.2 fun heq => hne ?_
      rw [h.eq_of_loader hx hl heq]
      exact ⟨rfl, rfl⟩

theorem loadDone_loadInv {loader : Nat} {ans : LoadAnswer} {s t : State} (h : s.LoadInv)
    (hdone : loadDone loader ans s = .next t) : t.LoadInv := by
  rcases loadDone_eq_next hdone with ⟨-, rfl⟩ | ⟨l, hfind, hans⟩
  · exact h
  · have hl : l ∈ s.loads := List.mem_of_find?_eq_some hfind
    have hid : l.loader = loader := by simpa using List.find?_some hfind
    subst hid
    rcases hans with ⟨hnone, -⟩ | ⟨d, -, ⟨img, d', -, -, hd', rfl⟩ | ⟨-, rfl⟩⟩
    · exact absurd (h.target l hl) (by simp [hnone])
    · refine h.endLoad hl d ?_
      rcases hd' with ⟨-, rfl⟩ | ⟨-, rfl⟩ <;> exact nofun
    · exact (h.endLoad hl d (d' := { d with media := .unattached }) nofun).emit _

/-- Every input keeps the invariant (44_host_operations.md R230). -/
theorem perform_loadInv {inp : Input} {s t : State} (h : s.LoadInv) (hp : perform exec inp s = .next t) :
    t.LoadInv := by
  cases inp with
  | guest a => exact exec_loadInv h hp
  | attach c k img => exact hostAttach_loadInv h hp
  | detachAll c k => exact next_inj hp ▸ h.detachAll c k
  | resetChannel c => exact next_inj hp ▸ h.resetChannel c
  | loadImage c sl src => exact hostLoadImage_loadInv h hp
  | loadDone l ans => exact loadDone_loadInv h hp

/-- Settles O12: an idle step changes nothing, and every input keeps the invariant. -/
theorem stepKeepsLoadInvariant : Obligations.StepKeepsLoadInvariant := by
  intro s t h hstep
  rcases step_eq_next hstep with ⟨-, rfl⟩ | ⟨inp, rest, -, hp⟩
  · exact h
  · exact perform_loadInv (h.withInputs rest) hp

end Sys2Proof.Machine
end

section
/-! The host operations and load completions as steps (44_host_operations.md R231 to R239, R242), each from the case
lemmas of its operation. -/

namespace Sys2Proof.Machine

/-- Settles O53: the slots and loads of `State.detachAll`, and the guest's side of `GuestStatic`. -/
theorem detachRemovesDrivesAndTheirLoads : Obligations.DetachRemovesDrivesAndTheirLoads := by
  intro s c k gone
  have hst := guestStatic_detachAll s c k
  have hstep := (step_detachAll s c k).trans (hostDetachAll_eq c k s)
  exact ⟨s.detachAll c k, hstep, fun c' sl => s.driveAt_detachAll c c' k sl, s.loads_detachAll c k,
    fun c' => ⟨hst.devCtl c', hst.selected c'⟩, (s.frame_detachAll c k).2, hst.inputs, hst.reads, hst.guestStalled⟩

/-- Settles O39: an empty channel logs, and any other gets each drive's backend Reset. -/
theorem channelResetResetsEveryDrive : Obligations.ChannelResetResetsEveryDrive := by
  intro s c resetDrive
  have hreset : resetDrive = Drive.backendReset := by
    funext d
    rcases d with ⟨k⟩
    cases k <;> rfl
  refine ⟨fun hm hs => ?_, fun h => ?_⟩
  · rw [step_resetChannel, State.resetChannel_of_empty hm hs]
    rfl
  · rw [step_resetChannel, State.resetChannel_of_present h, hreset]
    rfl

/-- Settles O51: the new drive is `attachedDrive`, and the channel's occupancy decides the slot. -/
theorem attachFillsTheLowestEmptySlot : Obligations.AttachFillsTheLowestEmptySlot := by
  intro s c k img hlen cv atapi fresh
  have hfresh : attachedDrive s.cfg k img = fresh := by cases k <;> cases img <;> rfl
  have hadm : (s.chan c).master = none ∨ (s.chan c).slave = none → ∀ x, img = some x → admittedImage k x = true :=
    fun hempty x hx => admittedImage_iff.2 (hlen hempty x hx)
  rw [step_attach, ← hfresh]
  cases hm : (s.chan c).master with
  | none => exact hostAttach_of_admitted (Channel.freeSlot_of_master hm) (hadm (.inl hm))
  | some d =>
    cases hs : (s.chan c).slave with
    | none => exact hostAttach_of_admitted (Channel.freeSlot_of_slave hm hs) (hadm (.inr hs))
    | some d' => exact hostAttach_of_full (Channel.freeSlot_of_full hm hs) k img

/-- Settles O52: the length check of an attach with an empty slot, and of a completion on its target drive. -/
theorem badHdStoreLengthFaults : Obligations.BadHdStoreLengthFaults := by
  intro s c img hlen
  refine ⟨fun hempty => ?_, fun l d hl hd hk => ?_⟩
  · obtain ⟨sl, hf⟩ := Channel.exists_freeSlot hempty
    rw [step_attach]
    exact hostAttach_of_not_admitted hf fun h => hlen (admittedImage_iff.1 h rfl)
  · rw [step_loadDone]
    exact loadDone_ok_of_bad_length hl hd hk hlen

/-- Settles O54: the state is `State.startLoad`, which gives an attached medium back. -/
theorem loadStartMakesMediaLoading : Obligations.LoadStartMakesMediaLoading := by
  intro s c sl src
  refine ⟨fun hnone => (step_loadImage s c sl src).trans (hostLoadImage_of_none hnone src), fun d hd => ?_⟩
  refine ⟨s.startLoad c sl d src, (step_loadImage s c sl src).trans (hostLoadImage_of_some hd src),
    s.driveAt_startLoad c sl d src, s.loads_startLoad c sl d src, s.events_startLoad c sl d src, fun m hm => ?_⟩
  rw [State.released_startLoad, hm]
  rfl

/-- Settles O55: the target drive is left as `Drive.cdLoadStage` leaves it with the image attached. -/
theorem atapiLoadCompletionStagesIdentify : Obligations.AtapiLoadCompletionStagesIdentify := by
  intro s l d img hl hd hk
  exact ⟨_, (step_loadDone ..).trans (loadDone_ok_atapi hl hd img hk), s.driveAt_endLoad l d _,
    s.loads_endLoad l d _, s.events_endLoad l d _⟩

/-- Settles O56: each completion is one `State.endLoad`, and one with no pending load is none. -/
theorem otherLoadCompletions : Obligations.OtherLoadCompletions := by
  intro s l d img
  refine ⟨fun hl hd => ⟨fun hk hlen => ?_, ?_⟩, fun hnone ans => ?_⟩
  · exact ⟨_, (step_loadDone ..).trans (loadDone_ok_hd hl hd hk hlen), s.driveAt_endLoad l d _,
      s.loads_endLoad l d _, s.events_endLoad l d _⟩
  · refine ⟨_, (step_loadDone ..).trans (loadDone_failed hl hd), fun c sl => ?_, ?_, ?_⟩
    · rw [State.driveAt_emit, State.driveAt_endLoad]
    · rw [State.loads_emit, State.loads_endLoad]
    · rw [State.events_emit, State.events_endLoad]
  · exact (step_loadDone ..).trans (loadDone_of_not_pending hnone ans)

end Sys2Proof.Machine
end

section
/-! A stalled guest (60_exceptions.md R270, 44_host_operations.md R243; log 19): its accesses stay where they are in the
inputs, and the first host or loader input is the one performed. -/

namespace Sys2Proof.Machine

theorem Input.isGuest_eq_true {inp : Input} : inp.isGuest = true ↔ ∃ a, inp = .guest a := by
  cases inp <;> simp [Input.isGuest]

theorem Input.isGuest_eq_false {inp : Input} : inp.isGuest = false ↔ ∀ a, inp ≠ .guest a := by
  cases inp <;> simp [Input.isGuest]

/-- With only accesses of a stalled guest left no input is enabled (60_exceptions.md R270). -/
theorem nextInput_stalled_of_all_guest {ins : List Input} (h : ins.all Input.isGuest = true) :
    nextInput true ins = none := by
  induction ins with
  | nil => rfl
  | cons x xs ih =>
    rw [List.all_cons, Bool.and_eq_true, Input.isGuest_eq_true] at h
    obtain ⟨⟨a, rfl⟩, hxs⟩ := h
    simp [nextInput, ih hxs]

/-- A stalled guest's accesses are passed over, and stay, until a host or loader input (60_exceptions.md R270). -/
theorem nextInput_stalled_append {gs : List Input} {inp : Input} (hgs : gs.all Input.isGuest = true)
    (hinp : inp.isGuest = false) (rest : List Input) :
    nextInput true (gs ++ inp :: rest) = some (inp, gs ++ rest) := by
  induction gs with
  | nil => exact nextInput_host true rest (Input.isGuest_eq_false.1 hinp)
  | cons x xs ih =>
    rw [List.all_cons, Bool.and_eq_true, Input.isGuest_eq_true] at hgs
    obtain ⟨⟨a, rfl⟩, hxs⟩ := hgs
    simp [nextInput, ih hxs]

/-- The input taken for a stalled guest is none of its accesses (60_exceptions.md R270). -/
theorem filter_isGuest_of_nextInput_stalled {ins rest : List Input} {inp : Input}
    (h : nextInput true ins = some (inp, rest)) : rest.filter Input.isGuest = ins.filter Input.isGuest := by
  obtain ⟨hinp, gs, tl, -, rfl, rfl⟩ := nextInput_stalled h
  simp [Input.isGuest_eq_false.2 hinp]

/-- Settles O8: every step of a stalled guest's machine is idle or a host or loader input, none of which touches the
guest's side. -/
theorem stalledGuestHangs : Obligations.StalledGuestHangs := by
  refine ⟨fun s t hst hstep => ?_, fun s hst hall => ?_, fun s gs rest inp hst hgs hinp hins => ?_⟩
  · rcases step_eq_next hstep with ⟨-, rfl⟩ | ⟨inp, rest, hnext, hp⟩
    · exact ⟨hst, rfl, rfl, fun hend => by simp [hend.2] at hst⟩
    · rw [hst] at hnext
      have hkeep := perform_guestStatic (nextInput_stalled hnext).1 hp
      have hstalled : t.guestStalled = true := hkeep.guestStalled.trans hst
      refine ⟨hstalled, hkeep.reads, ?_, fun hend => by simp [hend.2] at hstalled⟩
      rw [hkeep.inputs]
      exact filter_isGuest_of_nextInput_stalled hnext
  · rw [step, hst, nextInput_stalled_of_all_guest hall]
  · rw [step, hst, hins, nextInput_stalled_append hgs hinp]

end Sys2Proof.Machine
end

section
/-! A failed command's status and error (60_exceptions.md R262, R263): with no buffer the data port moves no word, and
the other port accesses address neither register. -/

namespace Sys2Proof.Machine

/-- An update of the selected drive that a drive does not notice leaves that drive where it is. -/
theorem State.driveAt_setDrive_of_fixed {s : State} {c c' : Chan} {sl sl' : Slot} {d d' : Drive} {f : Drive → Drive}
    (hs : s.sel c' = some (sl', d')) (hd : s.driveAt c sl = some d) (hf : f d = d) :
    (s.setDrive c' sl' (f d')).driveAt c sl = some d := by
  rw [State.driveAt_setDrive]
  split
  · rename_i hc
    obtain ⟨rfl, rfl⟩ := hc
    cases (State.driveAt_of_sel hs).symm.trans hd
    rw [hf]
  · exact hd

section NoBuffer

variable {s t : State} {c c' : Chan} {sl : Slot} {d : Drive} {n : Nat}
  (hd : s.driveAt c sl = some d) (hbuf : d.buf = [])
include hd hbuf

/-- A data read leaves a drive with no buffer alone (41_buffer_protocol.md R140). -/
theorem driveAt_dataRd_of_no_buffer (h : exec (.dataRd c' n) s = .next t) : t.driveAt c sl = some d := by
  have hn : admittedSize n = true := (whenAdmitted_eq_next (show execDataRd c' n s = .next t from h)).1
  cases hs : s.sel c' with
  | none =>
    rw [exec_dataRd_of_none hn hs] at h
    cases next_inj h
    rwa [State.driveAt_reply]
  | some p =>
    have hsame : (d.bufRead s.cfg.earlyFinish).2 = d := by rw [Drive.bufRead_of_le _ (by simp [hbuf])]
    rw [exec_dataRd_of_sel hn hs] at h
    cases next_inj h
    rw [State.driveAt_reply, State.driveAt_emit]
    exact State.driveAt_setDrive_of_fixed (f := fun d => (d.bufRead s.cfg.earlyFinish).2) hs hd hsame

/-- A data write leaves a drive with no buffer alone (41_buffer_protocol.md R142). -/
theorem driveAt_dataWr_of_no_buffer {v : Dword} (h : exec (.dataWr c' n v) s = .next t) :
    t.driveAt c sl = some d := by
  have hn : admittedSize n = true := (whenAdmitted_eq_next (show execDataWr c' n v s = .next t from h)).1
  cases hs : s.sel c' with
  | none =>
    rw [exec_dataWr_of_none hn hs] at h
    cases next_inj h
    exact hd
  | some p =>
    have hsame : d.bufWrite (valueWord v) = d := Drive.bufWrite_of_le _ (by simp [hbuf])
    rw [exec_dataWr_of_sel hn hs] at h
    cases next_inj h
    rw [State.driveAt_emit]
    exact State.driveAt_setDrive_of_fixed (f := fun d => d.bufWrite (valueWord v)) hs hd hsame

end NoBuffer

/-- Settles O22: a data access by the empty buffer, every other access by the frame of the register accesses. -/
theorem errorsPersist : Obligations.ErrorsPersist := by
  intro i s t c sl d n h hi hcmd hctl hd hstatus hbuf
  by_cases hrd : ∃ c' n', i = .dataRd c' n'
  · obtain ⟨c', n', rfl⟩ := hrd
    exact ⟨d, driveAt_dataRd_of_no_buffer hd hbuf h, hstatus, rfl, hbuf⟩
  by_cases hwr : ∃ c' n' v, i = .dataWr c' n' v
  · obtain ⟨c', n', v, rfl⟩ := hwr
    exact ⟨d, driveAt_dataWr_of_no_buffer hd hbuf h, hstatus, rfl, hbuf⟩
  have hframe := (exec_registerFrame h hi (fun c' n' e => hrd ⟨c', n', e⟩) (fun c' n' v e => hwr ⟨c', n', v, e⟩)
    hcmd hctl).drives c sl
  rw [hd, Option.map_some, Option.map_eq_some_iff] at hframe
  obtain ⟨d', hd', heq⟩ := hframe
  simp only [Drive.unaddressed, Prod.mk.injEq] at heq
  obtain ⟨-, herror', hstatus', hbuf', -⟩ := heq
  exact ⟨d', hd', hstatus'.trans hstatus, herror', hbuf'.trans hbuf⟩

end Sys2Proof.Machine
end

section
/-! What a command answers (60_exceptions.md R260, R269, R270; 20_memory.md R56, R57): a next state, in which a stall
begins only if the store answers so, or one of the two faults of a hard-disk store. -/

namespace Sys2Proof.Machine

/-- What a command on a drive of a kind can answer from a state. -/
inductive CommandAnswer (s : State) : Kind → Result → Prop
  /-- It ends within the step, or stalls (60_exceptions.md R270). -/
  | next {k : Kind} {t : State} (h : s.nextAnswer ≠ .stall → t.guestStalled = s.guestStalled) :
      CommandAnswer s k (.next t)
  /-- The hard-disk store answers an I/O fault (60_exceptions.md R269). -/
  | storeFault (h : s.nextAnswer = .ioFault) : CommandAnswer s .hd (.fault .hdStoreFault)
  /-- The hard-disk store ends within a sector (log 17), which the drive invariant rules out. -/
  | storeLength (h : ¬ s.DriveInv) : CommandAnswer s .hd (.fault .hdStoreLength)

namespace CommandAnswer

variable {s s' : State} {k : Kind} {r : Result}

theorem ne_refused (h : CommandAnswer s k r) (x : Refusal) : r ≠ .refused x := by
  cases h <;> nofun

/-- A command on an optical drive answers a next state, whatever the stream answers (43_atapi.md R202). -/
theorem next_of_atapi (h : CommandAnswer s .atapi r) : ∃ t, r = .next t := by
  cases h
  exact ⟨_, rfl⟩

/-- Without an I/O fault a command answers a next state in every state that meets the drive invariant. -/
theorem next_of_inv (h : CommandAnswer s k r) (hans : s.nextAnswer ≠ .ioFault) (hinv : s.DriveInv) :
    ∃ t, r = .next t ∧ (s.nextAnswer ≠ .stall → t.guestStalled = s.guestStalled) := by
  cases h with
  | next h => exact ⟨_, rfl, h⟩
  | storeFault h => exact absurd h hans
  | storeLength h => exact absurd hinv h

/-- What a command answers does not depend on an update made before it that the store oracle, the guest and the drive
invariant do not notice. -/
theorem of_updated (h : CommandAnswer s' k r) (hans : s'.nextAnswer = s.nextAnswer)
    (hst : s'.guestStalled = s.guestStalled) (hinv : s.DriveInv → s'.DriveInv) : CommandAnswer s k r := by
  cases h with
  | next h => exact .next (by rwa [hans, hst] at h)
  | storeFault h => exact .storeFault (hans ▸ h)
  | storeLength h => exact .storeLength fun hs => h (hinv hs)

/-- A drive stored is an answer of either backend. -/
theorem setDrive (s : State) (k : Kind) (c : Chan) (sl : Slot) (d : Drive) :
    CommandAnswer s k (.next (s.setDrive c sl d)) :=
  .next fun _ => State.guestStalled_setDrive s c sl d

/-- A command answers so if what it runs on a selected drive of its backend does. -/
theorem onBackend {c : Chan} {k' : Kind} {run : Slot → Drive → Result}
    (hrun : ∀ sl d, s.sel c = some (sl, d) → d.kind = k' → CommandAnswer s k (run sl d)) :
    CommandAnswer s k (onBackend c k' s run) := by
  unfold Machine.onBackend
  split
  · exact .next fun _ => rfl
  · split
    · exact hrun _ _ ‹_› ‹_›
    · exact .setDrive s k c _ _

/-- A command that only updates the selected drive. -/
theorem onBackend_update (s : State) (k : Kind) (c : Chan) (k' : Kind) (f : Drive → Drive) :
    CommandAnswer s k (Machine.onBackend c k' s fun sl d => .next (s.setDrive c sl (f d))) :=
  onBackend fun sl d _ _ => .setDrive s k c sl (f d)

end CommandAnswer

/-! ### Hard disk -/

/-- In a state that meets the drive invariant a sector that starts inside a hard-disk store ends inside it. -/
theorem State.DriveInv.hdOffset_add_le {s : State} (h : s.DriveInv) {c : Chan} {sl : Slot} {d : Drive} {m : Memory}
    (hs : s.sel c = some (sl, d)) (hk : d.kind = .hd) (hm : d.media = .attached m) (hlt : d.hdOffset < m.len) :
    d.hdOffset + hdSector ≤ m.len :=
  Drive.hdOffset_add_le (((h.drives c sl d (State.driveAt_of_sel hs)).store m hm).2 hk) hlt

section StoreAccess

variable {s : State} {d : Drive} {m : Memory} (hfit : s.DriveInv → d.hdOffset + hdSector ≤ m.len)
include hfit

theorem commandAnswer_hdReadAccess (c : Chan) (sl : Slot) : CommandAnswer s .hd (hdReadAccess c sl d m s) := by
  unfold hdReadAccess
  split
  · exact .next fun h => absurd ‹_› h
  · exact .storeFault ‹_›
  · split
    · exact .next fun _ => by simp
    · rename_i hlen
      exact .storeLength fun h => hlen (hfit h)

theorem commandAnswer_hdWriteAccess (c : Chan) (sl : Slot) : CommandAnswer s .hd (hdWriteAccess c sl d m s) := by
  unfold hdWriteAccess
  split
  · exact .next fun h => absurd ‹_› h
  · exact .storeFault ‹_›
  · split
    · exact .next fun _ => by simp
    · rename_i hlen
      exact .storeLength fun h => hlen (hfit h)

end StoreAccess

theorem commandAnswer_readSectors (c : Chan) (s : State) : CommandAnswer s .hd (execReadSectors c s) := by
  refine .onBackend fun sl d hs hk => ?_
  split
  · exact .setDrive ..
  · exact .setDrive ..
  · split
    · exact .setDrive ..
    · exact commandAnswer_hdReadAccess (fun h => h.hdOffset_add_le hs hk ‹_› (by omega)) c sl

theorem commandAnswer_writeSectors (c : Chan) (s : State) : CommandAnswer s .hd (execWriteSectors c s) := by
  refine .onBackend fun sl d hs hk => ?_
  split
  · exact .setDrive ..
  · exact .setDrive ..
  · split
    · exact .setDrive ..
    · split
      · exact .setDrive ..
      · exact commandAnswer_hdWriteAccess (fun h => h.hdOffset_add_le hs hk ‹_› (by omega)) c sl

/-- Every command byte on a hard disk (42_hard_disk.md R161). -/
theorem commandAnswer_hdRunCommand (c : Chan) (op : Byte) (s : State) : CommandAnswer s .hd (hdRunCommand c op s) := by
  unfold hdRunCommand
  split
  · exact commandAnswer_readSectors c s
  · split
    · exact commandAnswer_writeSectors c s
    · split
      · exact .onBackend_update ..
      · exact .onBackend_update ..

/-! ### Optical drive -/

theorem commandAnswer_cdRead (c : Chan) (lba n : Nat) (s : State) : CommandAnswer s .atapi (cdRead c lba n s) := by
  refine .onBackend fun sl d _ _ => ?_
  split
  · exact .setDrive ..
  · exact .setDrive ..
  · unfold cdReadAccess
    split
    · exact .next fun h => absurd ‹_› h
    · exact .next fun _ => by simp
    · dsimp only
      split
      · exact .next fun _ => by simp
      · exact .next fun _ => by simp

/-- Every packet (43_atapi.md R194). -/
theorem commandAnswer_cdRunPacket (c : Chan) (p : Vector Byte 12) (s : State) :
    CommandAnswer s .atapi (cdRunPacket c p s) := by
  unfold cdRunPacket
  split
  · exact .onBackend_update ..
  · split
    · exact commandAnswer_cdRead ..
    · split
      · exact commandAnswer_cdRead ..
      · exact .onBackend_update ..

/-- PACKET runs its packet on the state that holds it (43_atapi.md R193). -/
theorem commandAnswer_packet (c : Chan) (s : State) : CommandAnswer s .atapi (execPacket c s) :=
  .onBackend fun sl d hs _ => (commandAnswer_cdRunPacket c _ _).of_updated (State.nextAnswer_setDrive ..)
    (State.guestStalled_setDrive ..)
    fun h => h.setDrive c sl ((h.drives c sl d (State.driveAt_of_sel hs)).withPacket _)

/-- Every command byte on an optical drive (43_atapi.md R191). -/
theorem commandAnswer_cdRunCommand (c : Chan) (op : Byte) (s : State) :
    CommandAnswer s .atapi (cdRunCommand c op s) := by
  unfold cdRunCommand
  split
  · exact .onBackend_update ..
  · split
    · exact commandAnswer_packet c s
    · exact .onBackend_update ..

/-! ### The command register -/

theorem commandAnswer_runCommand (c : Chan) (k : Kind) (op : Byte) (s : State) :
    CommandAnswer s k (runCommand c k op s) := by
  cases k with
  | hd => exact commandAnswer_hdRunCommand c op s
  | atapi => exact commandAnswer_cdRunCommand c op s

/-- A command write answers as a command of the drive it reaches; with no drive it answers a next state
(40_controller_ports.md R119). -/
theorem commandAnswer_commandWr {s : State} {c : Chan} {n : Nat} {k : Kind} (hn : admittedSize n = true)
    (hk : ∀ sl d, s.sel c = some (sl, d) → d.kind = k) (v : Dword) :
    CommandAnswer s k (exec (.commandWr c n v) s) := by
  cases hs : s.sel c with
  | none =>
    rw [exec_commandWr_of_none hn hs]
    exact .next fun _ => rfl
  | some p =>
    rw [exec_commandWr_of_sel hn hs, exec_decodeCommand, hk p.1 p.2 hs]
    exact (commandAnswer_runCommand ..).of_updated rfl rfl fun h => h.emit _

/-- The drive a channel's ports reach is of one kind. -/
theorem State.exists_kind_of_sel (s : State) (c : Chan) : ∃ k, ∀ sl d, s.sel c = some (sl, d) → d.kind = k := by
  cases hs : s.sel c with
  | none => exact ⟨.hd, nofun⟩
  | some p =>
    refine ⟨p.2.kind, fun sl d h => ?_⟩
    cases h
    rfl

end Sys2Proof.Machine
end

section
/-! Guest accesses complete (60_exceptions.md R260, R269, R270): a port instruction of an admitted size but a command
write answers a next state and begins no stall, a command write answers as its command does, and no step is refused. -/

namespace Sys2Proof

/-! ### The size of an access -/

@[simp] theorem accessSize?_taskFileRead (c : Chan) (off : Fin 8) (n : Nat) :
    (taskFileRead c off n).accessSize? = some n := by
  fin_cases off <;> rfl

@[simp] theorem accessSize?_taskFileWrite (c : Chan) (off : Fin 8) (n : Nat) (v : Dword) :
    (taskFileWrite c off n v).accessSize? = some n := by
  fin_cases off <;> rfl

theorem Decodes.accessSize?_eq {a : Access} {i : Instr} (h : Decodes a i) : i.accessSize? = some a.size := by
  cases h with
  | taskRead c off n v => exact accessSize?_taskFileRead c off n
  | taskWrite c off n v => exact accessSize?_taskFileWrite c off n v
  | controlRead c n v => rfl
  | controlWrite c n v => rfl
  | unmappedRead n v h => rfl
  | unmappedWrite n v h => rfl

/-- A guest access decodes to a port instruction of its own size (30_encoding.md R72). -/
theorem accessSize?_decodeAccess (a : Access) : (decodeAccess a).accessSize? = some a.size :=
  (decodes_decodeAccess a).accessSize?_eq

theorem size_of_decodeAccess_commandWr {a : Access} {c : Chan} {n : Nat} {v : Dword}
    (h : decodeAccess a = .commandWr c n v) : n = a.size := by
  have hsize := accessSize?_decodeAccess a
  rw [h] at hsize
  exact Option.some.inj hsize

end Sys2Proof

namespace Sys2Proof.Machine

/-! ### Port instructions -/

/-- A port instruction of an admitted size but a command write answers a next state (40_controller_ports.md R101). -/
theorem exec_eq_next_of_admitted {i : Instr} {n : Nat} (hi : i.accessSize? = some n)
    (hcmd : ∀ c n v, i ≠ .commandWr c n v) (hn : admittedSize n = true) (s : State) : ∃ t, exec i s = .next t := by
  cases i <;> cases hi
  case commandWr c v => exact absurd rfl (hcmd c n v)
  all_goals exact ⟨_, whenAdmitted_next hn _⟩

theorem guestStalled_devctlWr {c : Chan} {n : Nat} {v : Dword} {s t : State} (h : execDevctlWr c n v s = .next t) :
    t.guestStalled = s.guestStalled := by
  rcases devctlWr_eq_next h with rfl | rfl | rfl
  · simp
  · obtain ⟨-, -, -, hst, -⟩ := State.frame_resetChannel (s.storeDevCtl c (valueByte v)) c
    rw [hst, State.guestStalled_storeDevCtl]
  · simp [State.srstRelease]

theorem guestStalled_dataRd {c : Chan} {n : Nat} {s t : State} (h : execDataRd c n s = .next t) :
    t.guestStalled = s.guestStalled := by
  obtain ⟨-, h⟩ := whenAdmitted_eq_next h
  cases next_inj h
  cases s.sel c <;> simp

theorem guestStalled_dataWr {c : Chan} {n : Nat} {v : Dword} {s t : State} (h : execDataWr c n v s = .next t) :
    t.guestStalled = s.guestStalled := by
  obtain ⟨-, h⟩ := whenAdmitted_eq_next h
  cases next_inj h
  cases s.sel c <;> simp

/-- No port instruction but a command write stalls the guest (60_exceptions.md R270). -/
theorem guestStalled_of_not_commandWr {i : Instr} {s t : State} {n : Nat} (h : exec i s = .next t)
    (hi : i.accessSize? = some n) (hcmd : ∀ c n v, i ≠ .commandWr c n v) : t.guestStalled = s.guestStalled := by
  by_cases hrd : ∃ c n, i = .dataRd c n
  · obtain ⟨c, n, rfl⟩ := hrd
    exact guestStalled_dataRd h
  by_cases hwr : ∃ c n v, i = .dataWr c n v
  · obtain ⟨c, n, v, rfl⟩ := hwr
    exact guestStalled_dataWr h
  by_cases hctl : ∃ c n v, i = .devctlWr c n v
  · obtain ⟨c, n, v, rfl⟩ := hctl
    exact guestStalled_devctlWr h
  exact (exec_registerFrame h hi (fun c n e => hrd ⟨c, n, e⟩) (fun c n v e => hwr ⟨c, n, v, e⟩) hcmd
    fun c n v e => hctl ⟨c, n, v, e⟩).guestStalled

/-- What a guest access of an admitted size answers: as a command, which any other access does too. -/
theorem commandAnswer_decodeAccess {a : Access} (ha : admittedSize a.size = true) (s : State) :
    ∃ k, CommandAnswer s k (exec (decodeAccess a) s) := by
  by_cases hcmd : ∃ c n v, decodeAccess a = .commandWr c n v
  · obtain ⟨c, n, v, he⟩ := hcmd
    obtain ⟨k, hk⟩ := s.exists_kind_of_sel c
    rw [he]
    exact ⟨k, commandAnswer_commandWr (size_of_decodeAccess_commandWr he ▸ ha) hk v⟩
  · have hcmd' : ∀ c n v, decodeAccess a ≠ .commandWr c n v := fun c n v e => hcmd ⟨c, n, v, e⟩
    obtain ⟨t, ht⟩ := exec_eq_next_of_admitted (accessSize?_decodeAccess a) hcmd' ha s
    have hst := guestStalled_of_not_commandWr ht (accessSize?_decodeAccess a) hcmd'
    exact ⟨.hd, ht ▸ .next fun _ => hst⟩

/-! ### No refusal -/

theorem exec_decodeAccess_ne_refused (a : Access) (s : State) (r : Refusal) : exec (decodeAccess a) s ≠ .refused r := by
  cases ha : admittedSize a.size with
  | true =>
    obtain ⟨k, h⟩ := commandAnswer_decodeAccess ha s
    exact h.ne_refused r
  | false =>
    obtain ⟨r', -, he⟩ := exec_eq_whenAdmitted (accessSize?_decodeAccess a) s
    rw [he, whenAdmitted, ha]
    nofun

theorem hostAttach_ne_refused (c : Chan) (k : Kind) (img : Option Image) (s : State) (r : Refusal) :
    hostAttach c k img s ≠ .refused r := by
  unfold hostAttach
  split
  · nofun
  · split <;> nofun

theorem hostLoadImage_ne_refused (c : Chan) (sl : Slot) (src : Nat) (s : State) (r : Refusal) :
    hostLoadImage c sl src s ≠ .refused r := by
  unfold hostLoadImage
  split <;> nofun

theorem loadSucceeds_ne_refused (c : Chan) (sl : Slot) (d : Drive) (img : Image) (s : State) (r : Refusal) :
    loadSucceeds c sl d img s ≠ .refused r := by
  unfold loadSucceeds
  split
  · dsimp only
    split <;> nofun
  · nofun

theorem loadDone_ne_refused (loader : Nat) (ans : LoadAnswer) (s : State) (r : Refusal) :
    loadDone loader ans s ≠ .refused r := by
  unfold loadDone
  split
  · nofun
  · dsimp only
    split
    · nofun
    · split
      · exact loadSucceeds_ne_refused _ _ _ _ _ r
      · nofun

theorem perform_ne_refused (inp : Input) (s : State) (r : Refusal) : perform exec inp s ≠ .refused r := by
  cases inp with
  | guest a => exact exec_decodeAccess_ne_refused a s r
  | attach c k img => exact hostAttach_ne_refused c k img s r
  | detachAll c k => nofun
  | resetChannel c => nofun
  | loadImage c sl src => exact hostLoadImage_ne_refused c sl src s r
  | loadDone l ans => exact loadDone_ne_refused l ans s r

theorem step_ne_refused (s : State) (r : Refusal) : step s ≠ .refused r := by
  unfold step
  split
  · nofun
  · exact perform_ne_refused _ _ r

/-- Settles O17: command writes by the answer of the command they run, the other port instructions by their size
check and the frame of what they do. -/
theorem guestAccessesComplete : Obligations.GuestAccessesComplete := by
  refine ⟨step_ne_refused, fun s a ha hans hinv => ?_, fun s a ha hans hinv => ?_, fun s a ha hcmd => ?_,
    fun s a c n v ha he hk => ?_⟩
  · obtain ⟨k, h⟩ := commandAnswer_decodeAccess ha s
    obtain ⟨t, ht, -⟩ := h.next_of_inv hans hinv
    exact ⟨t, ht⟩
  · obtain ⟨k, h⟩ := commandAnswer_decodeAccess ha s
    obtain ⟨t, ht, hst⟩ := h.next_of_inv (by simp [hans]) hinv
    exact ⟨t, ht, hst (by simp [hans])⟩
  · obtain ⟨t, ht⟩ := exec_eq_next_of_admitted (accessSize?_decodeAccess a) hcmd ha s
    exact ⟨t, ht, guestStalled_of_not_commandWr ht (accessSize?_decodeAccess a) hcmd⟩
  · rw [he]
    exact (commandAnswer_commandWr (size_of_decodeAccess_commandWr he ▸ ha) hk v).next_of_atapi

end Sys2Proof.Machine
end
